-- ==== Sys2Proof/Word.lean ====
section
/-! DEFINITION. The two word types of the block: the 8-bit priorities, masks and lanes, and the 32-bit register words
(00_scope.md R10). -/

namespace Sys2Proof

/-- An unsigned 8-bit value: a priority, a target mask, a byte lane (R10). -/
abbrev Byte := BitVec 8

/-- An unsigned 32-bit register word (R10). -/
abbrev Word := BitVec 32

end Sys2Proof
end

