-- ==== Sys2Proof/Syntax.lean ====
section
/-! DEFINITION. The instructions of the block: one constructor per row of spec/opcode_table.json (log 22). An
instruction is a decoded MMIO access (30_encoding.md R70): the accessor, the register word index within the row's
range, the byte lane `off[1:0]`, the size code, and the signedness flag (reads) or the value (writes). -/

namespace Sys2Proof

/-- The size codes 0 to 3 of an access (R70): 1, 2, 4 or 8 bytes. -/
inductive Size where
  | byte
  | half
  | word
  | dword
  deriving DecidableEq, Repr

/-- The operands every read carries (R70): accessor, size, signedness flag and `off[1:0]`. -/
structure ReadArgs where
  v : Byte
  sz : Size
  sg : Bool
  lane : BitVec 2
  deriving DecidableEq, Repr

/-- The operands every write carries (R70): accessor, size, `off[1:0]` and the value written. -/
structure WriteArgs where
  v : Byte
  sz : Size
  lane : BitVec 2
  val : Word
  deriving DecidableEq, Repr

/-- The decoded accesses, one constructor per row of spec/opcode_table.json. `n` is the register word index
`(off - base) div 4` within the row's own range (R72). -/
inductive Instr where
  /-- RD.RSVD (R133): 0x00C-0x01C, 0x040-0x07C, 0xF04-0xF0C, 0xF30-0xFCC (the default row); `o` is off[11:2]. -/
  | rdRsvd (o : BitVec 10) (a : ReadArgs)
  /-- RD.RSVD (R133): 0x7FC. -/
  | rdRsvd7FC (a : ReadArgs)
  /-- RD.RSVD (R133): 0xBFC. -/
  | rdRsvdBFC (a : ReadArgs)
  /-- RD.CTLR (R127): 0x000. -/
  | rdCtlr (a : ReadArgs)
  /-- RD.TYPER (R129): 0x004. -/
  | rdTyper (a : ReadArgs)
  /-- RD.IIDR (R130): 0x008. -/
  | rdIidr (a : ReadArgs)
  /-- RD.IMPDEF (R134): 0x020-0x03C. -/
  | rdImpdef (n : BitVec 3) (a : ReadArgs)
  /-- RD.IMPDEF (R134): 0xD00-0xDFC. -/
  | rdImpdefD00 (n : BitVec 6) (a : ReadArgs)
  /-- RD.IGROUPR (R131): 0x080-0x0FC. -/
  | rdIgroupr (n : BitVec 5) (a : ReadArgs)
  /-- RD.ISENABLER (R150): 0x100-0x17C. -/
  | rdIsenabler (n : BitVec 5) (a : ReadArgs)
  /-- RD.ICENABLER (R151): 0x180-0x1FC. -/
  | rdIcenabler (n : BitVec 5) (a : ReadArgs)
  /-- RD.ISPENDR (R154): 0x200-0x27C. -/
  | rdIspendr (n : BitVec 5) (a : ReadArgs)
  /-- RD.ICPENDR (R155): 0x280-0x2FC. -/
  | rdIcpendr (n : BitVec 5) (a : ReadArgs)
  /-- RD.ISACTIVER (R158): 0x300-0x37C. -/
  | rdIsactiver (n : BitVec 5) (a : ReadArgs)
  /-- RD.ICACTIVER (R159): 0x380-0x3FC. -/
  | rdIcactiver (n : BitVec 5) (a : ReadArgs)
  /-- RD.IPRIORITYR (R162): 0x400-0x7F8. -/
  | rdIpriorityr (n : BitVec 8) (a : ReadArgs)
  /-- RD.ITARGETSR (R164): 0x800-0xBF8. -/
  | rdItargetsr (n : BitVec 8) (a : ReadArgs)
  /-- RD.ICFGR (R167): 0xC00-0xCFC. -/
  | rdIcfgr (n : BitVec 6) (a : ReadArgs)
  /-- RD.NSACR (R132): 0xE00-0xEFC. -/
  | rdNsacr (n : BitVec 6) (a : ReadArgs)
  /-- RD.SGIR (R135): 0xF00. -/
  | rdSgir (a : ReadArgs)
  /-- RD.CPENDSGIR (R170): 0xF10-0xF1C. -/
  | rdCpendsgir (n : BitVec 2) (a : ReadArgs)
  /-- RD.SPENDSGIR (R171): 0xF20-0xF2C. -/
  | rdSpendsgir (n : BitVec 2) (a : ReadArgs)
  /-- RD.PID (R138): 0xFD0-0xFDC. -/
  | rdPid (n : BitVec 2) (a : ReadArgs)
  /-- RD.PID (R138): 0xFE0-0xFFC. -/
  | rdPidFE0 (n : BitVec 3) (a : ReadArgs)
  /-- WR.RSVD (R133): 0x00C-0x01C, 0x040-0x07C, 0xF04-0xF0C, 0xF30-0xFCC (the default row); `o` is off[11:2]. -/
  | wrRsvd (o : BitVec 10) (a : WriteArgs)
  /-- WR.RSVD (R133): 0x7FC. -/
  | wrRsvd7FC (a : WriteArgs)
  /-- WR.RSVD (R133): 0xBFC. -/
  | wrRsvdBFC (a : WriteArgs)
  /-- WR.CTLR (R128): 0x000. -/
  | wrCtlr (a : WriteArgs)
  /-- WR.TYPER (R129): 0x004. -/
  | wrTyper (a : WriteArgs)
  /-- WR.IIDR (R130): 0x008. -/
  | wrIidr (a : WriteArgs)
  /-- WR.IMPDEF (R134): 0x020-0x03C. -/
  | wrImpdef (n : BitVec 3) (a : WriteArgs)
  /-- WR.IMPDEF (R134): 0xD00-0xDFC. -/
  | wrImpdefD00 (n : BitVec 6) (a : WriteArgs)
  /-- WR.IGROUPR (R131): 0x080-0x0FC. -/
  | wrIgroupr (n : BitVec 5) (a : WriteArgs)
  /-- WR.ISENABLER (R152): 0x100-0x17C. -/
  | wrIsenabler (n : BitVec 5) (a : WriteArgs)
  /-- WR.ICENABLER (R153): 0x180-0x1FC. -/
  | wrIcenabler (n : BitVec 5) (a : WriteArgs)
  /-- WR.ISPENDR (R156): 0x200-0x27C. -/
  | wrIspendr (n : BitVec 5) (a : WriteArgs)
  /-- WR.ICPENDR (R157): 0x280-0x2FC. -/
  | wrIcpendr (n : BitVec 5) (a : WriteArgs)
  /-- WR.ISACTIVER (R160): 0x300-0x37C. -/
  | wrIsactiver (n : BitVec 5) (a : WriteArgs)
  /-- WR.ICACTIVER (R161): 0x380-0x3FC. -/
  | wrIcactiver (n : BitVec 5) (a : WriteArgs)
  /-- WR.IPRIORITYR (R163): 0x400-0x7F8. -/
  | wrIpriorityr (n : BitVec 8) (a : WriteArgs)
  /-- WR.ITARGETSR (R166): 0x820-0xBF8. -/
  | wrItargetsr (n : BitVec 8) (a : WriteArgs)
  /-- WR.ITARGETSR.RO (R165): 0x800-0x81C. -/
  | wrItargetsrRo (n : BitVec 3) (a : WriteArgs)
  /-- WR.ICFGR (R169): 0xC08-0xCFC. -/
  | wrIcfgr (n : BitVec 6) (a : WriteArgs)
  /-- WR.ICFGR.RO (R168): 0xC00-0xC04. -/
  | wrIcfgrRo (n : BitVec 1) (a : WriteArgs)
  /-- WR.NSACR (R132): 0xE00-0xEFC. -/
  | wrNsacr (n : BitVec 6) (a : WriteArgs)
  /-- WR.SGIR (R136): 0xF00, when the access is no aligned word (an aligned word is one of the four SGIR value rows; log 8). -/
  | wrSgir (a : WriteArgs)
  /-- WR.CPENDSGIR (R172): 0xF10-0xF1C. -/
  | wrCpendsgir (n : BitVec 2) (a : WriteArgs)
  /-- WR.SPENDSGIR (R173): 0xF20-0xF2C. -/
  | wrSpendsgir (n : BitVec 2) (a : WriteArgs)
  /-- WR.PID (R137): 0xFD0-0xFDC. -/
  | wrPid (n : BitVec 2) (a : WriteArgs)
  /-- WR.PID (R137): 0xFE0-0xFFC. -/
  | wrPidFE0 (n : BitVec 3) (a : WriteArgs)
  /-- WR.SGIR.LIST (R231): an aligned word write to 0xF00 with val[25:24] = 0: `list` is val[23:16], `id` is val[3:0]. -/
  | wrSgirList (v list : Byte) (id : BitVec 4)
  /-- WR.SGIR.OTHERS (R232): an aligned word write to 0xF00 with val[25:24] = 1: `id` is val[3:0]. -/
  | wrSgirOthers (v : Byte) (id : BitVec 4)
  /-- WR.SGIR.SELF (R233): an aligned word write to 0xF00 with val[25:24] = 2: `id` is val[3:0]. -/
  | wrSgirSelf (v : Byte) (id : BitVec 4)
  /-- WR.SGIR.RSVD (R234): an aligned word write to 0xF00 with val[25:24] = 3: the diagnostic carries the whole value. -/
  | wrSgirRsvd (v : Byte) (val : Word)
  deriving DecidableEq, Repr

/-- The accessor vCPU of an access (R70): the vCPU whose access trapped, the sender of an SGI write. -/
def Instr.accessor : Instr → Byte
  | .rdRsvd _ a => a.v
  | .rdRsvd7FC a => a.v
  | .rdRsvdBFC a => a.v
  | .rdCtlr a => a.v
  | .rdTyper a => a.v
  | .rdIidr a => a.v
  | .rdImpdef _ a => a.v
  | .rdImpdefD00 _ a => a.v
  | .rdIgroupr _ a => a.v
  | .rdIsenabler _ a => a.v
  | .rdIcenabler _ a => a.v
  | .rdIspendr _ a => a.v
  | .rdIcpendr _ a => a.v
  | .rdIsactiver _ a => a.v
  | .rdIcactiver _ a => a.v
  | .rdIpriorityr _ a => a.v
  | .rdItargetsr _ a => a.v
  | .rdIcfgr _ a => a.v
  | .rdNsacr _ a => a.v
  | .rdSgir a => a.v
  | .rdCpendsgir _ a => a.v
  | .rdSpendsgir _ a => a.v
  | .rdPid _ a => a.v
  | .rdPidFE0 _ a => a.v
  | .wrRsvd _ a => a.v
  | .wrRsvd7FC a => a.v
  | .wrRsvdBFC a => a.v
  | .wrCtlr a => a.v
  | .wrTyper a => a.v
  | .wrIidr a => a.v
  | .wrImpdef _ a => a.v
  | .wrImpdefD00 _ a => a.v
  | .wrIgroupr _ a => a.v
  | .wrIsenabler _ a => a.v
  | .wrIcenabler _ a => a.v
  | .wrIspendr _ a => a.v
  | .wrIcpendr _ a => a.v
  | .wrIsactiver _ a => a.v
  | .wrIcactiver _ a => a.v
  | .wrIpriorityr _ a => a.v
  | .wrItargetsr _ a => a.v
  | .wrItargetsrRo _ a => a.v
  | .wrIcfgr _ a => a.v
  | .wrIcfgrRo _ a => a.v
  | .wrNsacr _ a => a.v
  | .wrSgir a => a.v
  | .wrCpendsgir _ a => a.v
  | .wrSpendsgir _ a => a.v
  | .wrPid _ a => a.v
  | .wrPidFE0 _ a => a.v
  | .wrSgirList v _ _ => v
  | .wrSgirOthers v _ => v
  | .wrSgirSelf v _ => v
  | .wrSgirRsvd v _ => v

end Sys2Proof
end

