-- ==== Sys2Proof/WellFormed.lean ====
section
/-! DEFINITION. Which instructions are well formed: the operand values the row's range of 30_encoding.md R72 admits.
The decoder answers well-formed instructions only. -/

namespace Sys2Proof

/-- The word offsets (`off[11:2]`) that the default reserved rows select (R72, R133): 0x00C-0x01C, 0x040-0x07C,
0xF04-0xF0C and 0xF30-0xFCC. -/
def defaultReserved (o : BitVec 10) : Bool :=
  (0x003#10 ≤ o && o ≤ 0x007#10) || (0x010#10 ≤ o && o ≤ 0x01F#10) ||
  (0x3C1#10 ≤ o && o ≤ 0x3C3#10) || (0x3CC#10 ≤ o && o ≤ 0x3F3#10)

/-- The operand checks of R72 to R74 and R79: the reserved word 255 is no IPRIORITYR or ITARGETSR word, the writable
ITARGETSR words start at 8 and the writable ICFGR words at 2, an aligned word write of SGIR is one of the four value
rows (log 8), and the reserved value row carries filter 3. -/
def Instr.wf : Instr → Bool
  | .rdRsvd o _ => defaultReserved o
  | .rdRsvd7FC _ => true
  | .rdRsvdBFC _ => true
  | .rdCtlr _ => true
  | .rdTyper _ => true
  | .rdIidr _ => true
  | .rdImpdef _ _ => true
  | .rdImpdefD00 _ _ => true
  | .rdIgroupr _ _ => true
  | .rdIsenabler _ _ => true
  | .rdIcenabler _ _ => true
  | .rdIspendr _ _ => true
  | .rdIcpendr _ _ => true
  | .rdIsactiver _ _ => true
  | .rdIcactiver _ _ => true
  | .rdIpriorityr n _ => n != 255#8
  | .rdItargetsr n _ => n != 255#8
  | .rdIcfgr _ _ => true
  | .rdNsacr _ _ => true
  | .rdSgir _ => true
  | .rdCpendsgir _ _ => true
  | .rdSpendsgir _ _ => true
  | .rdPid _ _ => true
  | .rdPidFE0 _ _ => true
  | .wrRsvd o _ => defaultReserved o
  | .wrRsvd7FC _ => true
  | .wrRsvdBFC _ => true
  | .wrCtlr _ => true
  | .wrTyper _ => true
  | .wrIidr _ => true
  | .wrImpdef _ _ => true
  | .wrImpdefD00 _ _ => true
  | .wrIgroupr _ _ => true
  | .wrIsenabler _ _ => true
  | .wrIcenabler _ _ => true
  | .wrIspendr _ _ => true
  | .wrIcpendr _ _ => true
  | .wrIsactiver _ _ => true
  | .wrIcactiver _ _ => true
  | .wrIpriorityr n _ => n != 255#8
  | .wrItargetsr n _ => 8#8 ≤ n && n != 255#8
  | .wrItargetsrRo _ _ => true
  | .wrIcfgr n _ => 2#6 ≤ n
  | .wrIcfgrRo _ _ => true
  | .wrNsacr _ _ => true
  | .wrSgir a => !(a.sz == .word && a.lane == 0#2)
  | .wrCpendsgir _ _ => true
  | .wrSpendsgir _ _ => true
  | .wrPid _ _ => true
  | .wrPidFE0 _ _ => true
  | .wrSgirList _ _ _ => true
  | .wrSgirOthers _ _ => true
  | .wrSgirSelf _ _ => true
  | .wrSgirRsvd _ val => val.extractLsb' 24 2 == 3#2

/-- An instruction the decoder can answer. -/
abbrev Instr.WF (i : Instr) : Prop := i.wf = true

end Sys2Proof
end

