-- ==== Sys2Proof/Decode.lean ====
section
/-! DEFINITION. The decoder of an MMIO access, total on any bytes, and the encoder beside it. An access is presented as
the eight bytes of its tuple (30_encoding.md R70); the layout of the tuple in bytes is the model's (log 6):

  bytes 0, 1   the decode key {W, off[11:0]} (R71), low byte first; bits 15:13 are 0
  byte 2       bits 1:0 the size code, bit 2 the signedness flag, bits 7:3 are 0
  byte 3       the accessor
  bytes 4-7    the value written, low byte first (R53)

The register group is selected by the key alone (R71): the rows of spec/opcode_table.json, the one with the most mask
bits first (R73). The value of an aligned word write to SGIR is decoded by its four rows (R79). -/

namespace Sys2Proof

/-- Why bytes are no access tuple. -/
inductive DecodeError where
  /-- The access is not eight bytes long. Safe: no such access exists (log 7). -/
  | badLength
  /-- A bit above the 13-bit key is set: an offset outside the frame cannot be written in the field (20_memory.md R51,
  R89). Safe (log 7). -/
  | offsetOutsideFrame
  /-- A bit of byte 2 that belongs to no field of R70 is set. Safe (log 7). -/
  | reservedBits
  deriving DecidableEq, Repr

/-- The access tuple `(v, W, off, sz, sg, val)` of R70. -/
structure Access where
  v : Byte
  W : Bool
  off : BitVec 12
  sz : Size
  sg : Bool
  val : Word
  deriving DecidableEq, Repr

/-- The size of a size code (R70). -/
def Size.ofCode (c : BitVec 2) : Size :=
  if c = 0#2 then .byte else if c = 1#2 then .half else if c = 2#2 then .word else .dword

/-- The code of a size (R70). -/
def Size.code : Size → BitVec 2
  | .byte => 0#2
  | .half => 1#2
  | .word => 2#2
  | .dword => 3#2

/-- The access tuple in eight bytes (log 6). Bits that belong to no field must be 0. -/
def Access.ofBytes : List Byte → Except DecodeError Access
  | [b0, b1, b2, b3, b4, b5, b6, b7] =>
    if b1.extractLsb' 5 3 ≠ 0#3 then .error .offsetOutsideFrame
    else if b2.extractLsb' 3 5 ≠ 0#5 then .error .reservedBits
    else .ok
      { v := b3
        W := b1.getLsbD 4
        off := b1.extractLsb' 0 4 ++ b0
        sz := Size.ofCode (b2.extractLsb' 0 2)
        sg := b2.getLsbD 2
        val := b7 ++ b6 ++ b5 ++ b4 }
  | _ => .error .badLength

/-- The bytes of an access tuple (log 6). -/
def Access.toBytes (x : Access) : List Byte :=
  [x.off.extractLsb' 0 8,
   (BitVec.ofBool x.W).setWidth 4 ++ x.off.extractLsb' 8 4,
   (BitVec.ofBool x.sg).setWidth 6 ++ x.sz.code,
   x.v,
   x.val.extractLsb' 0 8, x.val.extractLsb' 8 8, x.val.extractLsb' 16 8, x.val.extractLsb' 24 8]

/-- The decode key `{W, off[11:0]}` (R71). -/
def Access.key (x : Access) : BitVec 13 := BitVec.ofBool x.W ++ x.off

/-- The operands of a read; the value field belongs to writes only (R70). -/
def Access.readArgs (x : Access) : ReadArgs := ⟨x.v, x.sz, x.sg, x.off.extractLsb' 0 2⟩

/-- The operands of a write; the signedness flag belongs to reads only (R70). -/
def Access.writeArgs (x : Access) : WriteArgs := ⟨x.v, x.sz, x.off.extractLsb' 0 2, x.val⟩

/-- A k-bit register word index: `off[k+1:2]` (R72, R74). -/
def Access.index (k : Nat) (x : Access) : BitVec k := x.off.extractLsb' 2 k

/-- An access to 0xF00 in the write direction. An aligned word is decoded by the filter field of its value (R78, R79);
bits [31:26], [15:4] and, but for the explicit list, [23:16] are ignored (R85). Any other access is WR.SGIR itself
(log 8). -/
def decodeSgir (x : Access) : Instr :=
  if x.sz = .word ∧ x.off.extractLsb' 0 2 = 0#2 then
    if x.val.extractLsb' 24 2 = 0#2 then .wrSgirList x.v (x.val.extractLsb' 16 8) (x.val.extractLsb' 0 4)
    else if x.val.extractLsb' 24 2 = 1#2 then .wrSgirOthers x.v (x.val.extractLsb' 0 4)
    else if x.val.extractLsb' 24 2 = 2#2 then .wrSgirSelf x.v (x.val.extractLsb' 0 4)
    else .wrSgirRsvd x.v x.val
  else .wrSgir x.writeArgs

/-- One row of format MMIO of spec/opcode_table.json: a key matches when `key & mask = pattern` (R73). -/
structure KeyRow where
  mask : BitVec 13
  pattern : BitVec 13
  build : Access → Instr

/-- Does the key match the row (R73)? -/
def KeyRow.hits (r : KeyRow) (key : BitVec 13) : Bool := key &&& r.mask == r.pattern

/-- The rows of spec/opcode_table.json whose masks have 11 bits set. -/
def keyRows11 : List KeyRow :=
  [⟨0x1FFC#13, 0x07FC#13, fun x => .rdRsvd7FC x.readArgs⟩,
   ⟨0x1FFC#13, 0x0BFC#13, fun x => .rdRsvdBFC x.readArgs⟩,
   ⟨0x1FFC#13, 0x0000#13, fun x => .rdCtlr x.readArgs⟩,
   ⟨0x1FFC#13, 0x0004#13, fun x => .rdTyper x.readArgs⟩,
   ⟨0x1FFC#13, 0x0008#13, fun x => .rdIidr x.readArgs⟩,
   ⟨0x1FFC#13, 0x0F00#13, fun x => .rdSgir x.readArgs⟩,
   ⟨0x1FFC#13, 0x17FC#13, fun x => .wrRsvd7FC x.writeArgs⟩,
   ⟨0x1FFC#13, 0x1BFC#13, fun x => .wrRsvdBFC x.writeArgs⟩,
   ⟨0x1FFC#13, 0x1000#13, fun x => .wrCtlr x.writeArgs⟩,
   ⟨0x1FFC#13, 0x1004#13, fun x => .wrTyper x.writeArgs⟩,
   ⟨0x1FFC#13, 0x1008#13, fun x => .wrIidr x.writeArgs⟩,
   ⟨0x1FFC#13, 0x1F00#13, decodeSgir⟩]

/-- The rows of spec/opcode_table.json whose masks have 10 bits set. -/
def keyRows10 : List KeyRow :=
  [⟨0x1FF8#13, 0x1C00#13, fun x => .wrIcfgrRo (x.index 1) x.writeArgs⟩]

/-- The rows of spec/opcode_table.json whose masks have 9 bits set. -/
def keyRows9 : List KeyRow :=
  [⟨0x1FF0#13, 0x0F10#13, fun x => .rdCpendsgir (x.index 2) x.readArgs⟩,
   ⟨0x1FF0#13, 0x0F20#13, fun x => .rdSpendsgir (x.index 2) x.readArgs⟩,
   ⟨0x1FF0#13, 0x0FD0#13, fun x => .rdPid (x.index 2) x.readArgs⟩,
   ⟨0x1FF0#13, 0x1F10#13, fun x => .wrCpendsgir (x.index 2) x.writeArgs⟩,
   ⟨0x1FF0#13, 0x1F20#13, fun x => .wrSpendsgir (x.index 2) x.writeArgs⟩,
   ⟨0x1FF0#13, 0x1FD0#13, fun x => .wrPid (x.index 2) x.writeArgs⟩]

/-- The rows of spec/opcode_table.json whose masks have 8 bits set. -/
def keyRows8 : List KeyRow :=
  [⟨0x1FE0#13, 0x0020#13, fun x => .rdImpdef (x.index 3) x.readArgs⟩,
   ⟨0x1FE0#13, 0x0FE0#13, fun x => .rdPidFE0 (x.index 3) x.readArgs⟩,
   ⟨0x1FE0#13, 0x1020#13, fun x => .wrImpdef (x.index 3) x.writeArgs⟩,
   ⟨0x1FE0#13, 0x1800#13, fun x => .wrItargetsrRo (x.index 3) x.writeArgs⟩,
   ⟨0x1FE0#13, 0x1FE0#13, fun x => .wrPidFE0 (x.index 3) x.writeArgs⟩]

/-- The rows of spec/opcode_table.json whose masks have 6 bits set. -/
def keyRows6 : List KeyRow :=
  [⟨0x1F80#13, 0x0080#13, fun x => .rdIgroupr (x.index 5) x.readArgs⟩,
   ⟨0x1F80#13, 0x0100#13, fun x => .rdIsenabler (x.index 5) x.readArgs⟩,
   ⟨0x1F80#13, 0x0180#13, fun x => .rdIcenabler (x.index 5) x.readArgs⟩,
   ⟨0x1F80#13, 0x0200#13, fun x => .rdIspendr (x.index 5) x.readArgs⟩,
   ⟨0x1F80#13, 0x0280#13, fun x => .rdIcpendr (x.index 5) x.readArgs⟩,
   ⟨0x1F80#13, 0x0300#13, fun x => .rdIsactiver (x.index 5) x.readArgs⟩,
   ⟨0x1F80#13, 0x0380#13, fun x => .rdIcactiver (x.index 5) x.readArgs⟩,
   ⟨0x1F80#13, 0x1080#13, fun x => .wrIgroupr (x.index 5) x.writeArgs⟩,
   ⟨0x1F80#13, 0x1100#13, fun x => .wrIsenabler (x.index 5) x.writeArgs⟩,
   ⟨0x1F80#13, 0x1180#13, fun x => .wrIcenabler (x.index 5) x.writeArgs⟩,
   ⟨0x1F80#13, 0x1200#13, fun x => .wrIspendr (x.index 5) x.writeArgs⟩,
   ⟨0x1F80#13, 0x1280#13, fun x => .wrIcpendr (x.index 5) x.writeArgs⟩,
   ⟨0x1F80#13, 0x1300#13, fun x => .wrIsactiver (x.index 5) x.writeArgs⟩,
   ⟨0x1F80#13, 0x1380#13, fun x => .wrIcactiver (x.index 5) x.writeArgs⟩]

/-- The rows of spec/opcode_table.json whose masks have 5 bits set. -/
def keyRows5 : List KeyRow :=
  [⟨0x1F00#13, 0x0D00#13, fun x => .rdImpdefD00 (x.index 6) x.readArgs⟩,
   ⟨0x1F00#13, 0x0C00#13, fun x => .rdIcfgr (x.index 6) x.readArgs⟩,
   ⟨0x1F00#13, 0x0E00#13, fun x => .rdNsacr (x.index 6) x.readArgs⟩,
   ⟨0x1F00#13, 0x1D00#13, fun x => .wrImpdefD00 (x.index 6) x.writeArgs⟩,
   ⟨0x1F00#13, 0x1C00#13, fun x => .wrIcfgr (x.index 6) x.writeArgs⟩,
   ⟨0x1F00#13, 0x1E00#13, fun x => .wrNsacr (x.index 6) x.writeArgs⟩]

/-- The rows of spec/opcode_table.json whose masks have 3 bits set. -/
def keyRows3 : List KeyRow :=
  [⟨0x1C00#13, 0x0400#13, fun x => .rdIpriorityr (x.index 8) x.readArgs⟩,
   ⟨0x1C00#13, 0x0800#13, fun x => .rdItargetsr (x.index 8) x.readArgs⟩,
   ⟨0x1C00#13, 0x1400#13, fun x => .wrIpriorityr (x.index 8) x.writeArgs⟩,
   ⟨0x1C00#13, 0x1800#13, fun x => .wrItargetsr (x.index 8) x.writeArgs⟩]

/-- The rows of spec/opcode_table.json whose masks have 1 bits set: the default rows. -/
def keyRows1 : List KeyRow :=
  [⟨0x1000#13, 0x0000#13, fun x => .rdRsvd (x.index 10) x.readArgs⟩,
   ⟨0x1000#13, 0x1000#13, fun x => .wrRsvd (x.index 10) x.writeArgs⟩]

/-- All fifty rows of format MMIO, the most specific first (R73). -/
def keyRows : List KeyRow :=
  keyRows11 ++ keyRows10 ++ keyRows9 ++ keyRows8 ++ keyRows6 ++ keyRows5 ++ keyRows3 ++ keyRows1

/-- The row an access selects: of the rows its key matches, the one whose mask has the most bits set (R73). The default
rows match every key, so the list always holds one. -/
def selectRow (key : BitVec 13) : Option KeyRow := keyRows.find? (fun r => r.hits key)

/-- The instruction of an access tuple: total (R73, R89). -/
def decodeAccess (x : Access) : Instr :=
  match selectRow x.key with
  | some r => r.build x
  | none => if x.W then .wrRsvd (x.index 10) x.writeArgs else .rdRsvd (x.index 10) x.readArgs

/-- The decoder: the instruction of the bytes presented, or why they are no access tuple. -/
def decode (bs : List Byte) : Except DecodeError Instr :=
  match Access.ofBytes bs with
  | .ok x => .ok (decodeAccess x)
  | .error e => .error e

/-- The offset of word index `n` of a range that begins at `base`, lane `lane` (R72). -/
def frameOffset {k : Nat} (base : BitVec 12) (n : BitVec k) (lane : BitVec 2) : BitVec 12 :=
  base ||| (n.setWidth 12 <<< 2) ||| lane.setWidth 12

/-- The access tuple of a read at `off`. -/
def ReadArgs.access (a : ReadArgs) (off : BitVec 12) : Access :=
  { v := a.v, W := false, off := off, sz := a.sz, sg := a.sg, val := 0#32 }

/-- The access tuple of a write at `off`. -/
def WriteArgs.access (a : WriteArgs) (off : BitVec 12) : Access :=
  { v := a.v, W := true, off := off, sz := a.sz, sg := false, val := a.val }

/-- The word write of `val` to SGIR at 0xF00 by `v` (R78). -/
def sgirAccess (v : Byte) (val : Word) : Access :=
  { v := v, W := true, off := 0xF00#12, sz := .word, sg := false, val := val }

/-- The access tuple of an instruction, from the register map of R72 and the value formats of R79. -/
def Instr.access : Instr → Access
  | .rdRsvd o a => a.access (frameOffset 0x000#12 o a.lane)
  | .rdRsvd7FC a => a.access (frameOffset 0x7FC#12 0#1 a.lane)
  | .rdRsvdBFC a => a.access (frameOffset 0xBFC#12 0#1 a.lane)
  | .rdCtlr a => a.access (frameOffset 0x000#12 0#1 a.lane)
  | .rdTyper a => a.access (frameOffset 0x004#12 0#1 a.lane)
  | .rdIidr a => a.access (frameOffset 0x008#12 0#1 a.lane)
  | .rdImpdef n a => a.access (frameOffset 0x020#12 n a.lane)
  | .rdImpdefD00 n a => a.access (frameOffset 0xD00#12 n a.lane)
  | .rdIgroupr n a => a.access (frameOffset 0x080#12 n a.lane)
  | .rdIsenabler n a => a.access (frameOffset 0x100#12 n a.lane)
  | .rdIcenabler n a => a.access (frameOffset 0x180#12 n a.lane)
  | .rdIspendr n a => a.access (frameOffset 0x200#12 n a.lane)
  | .rdIcpendr n a => a.access (frameOffset 0x280#12 n a.lane)
  | .rdIsactiver n a => a.access (frameOffset 0x300#12 n a.lane)
  | .rdIcactiver n a => a.access (frameOffset 0x380#12 n a.lane)
  | .rdIpriorityr n a => a.access (frameOffset 0x400#12 n a.lane)
  | .rdItargetsr n a => a.access (frameOffset 0x800#12 n a.lane)
  | .rdIcfgr n a => a.access (frameOffset 0xC00#12 n a.lane)
  | .rdNsacr n a => a.access (frameOffset 0xE00#12 n a.lane)
  | .rdSgir a => a.access (frameOffset 0xF00#12 0#1 a.lane)
  | .rdCpendsgir n a => a.access (frameOffset 0xF10#12 n a.lane)
  | .rdSpendsgir n a => a.access (frameOffset 0xF20#12 n a.lane)
  | .rdPid n a => a.access (frameOffset 0xFD0#12 n a.lane)
  | .rdPidFE0 n a => a.access (frameOffset 0xFE0#12 n a.lane)
  | .wrRsvd o a => a.access (frameOffset 0x000#12 o a.lane)
  | .wrRsvd7FC a => a.access (frameOffset 0x7FC#12 0#1 a.lane)
  | .wrRsvdBFC a => a.access (frameOffset 0xBFC#12 0#1 a.lane)
  | .wrCtlr a => a.access (frameOffset 0x000#12 0#1 a.lane)
  | .wrTyper a => a.access (frameOffset 0x004#12 0#1 a.lane)
  | .wrIidr a => a.access (frameOffset 0x008#12 0#1 a.lane)
  | .wrImpdef n a => a.access (frameOffset 0x020#12 n a.lane)
  | .wrImpdefD00 n a => a.access (frameOffset 0xD00#12 n a.lane)
  | .wrIgroupr n a => a.access (frameOffset 0x080#12 n a.lane)
  | .wrIsenabler n a => a.access (frameOffset 0x100#12 n a.lane)
  | .wrIcenabler n a => a.access (frameOffset 0x180#12 n a.lane)
  | .wrIspendr n a => a.access (frameOffset 0x200#12 n a.lane)
  | .wrIcpendr n a => a.access (frameOffset 0x280#12 n a.lane)
  | .wrIsactiver n a => a.access (frameOffset 0x300#12 n a.lane)
  | .wrIcactiver n a => a.access (frameOffset 0x380#12 n a.lane)
  | .wrIpriorityr n a => a.access (frameOffset 0x400#12 n a.lane)
  | .wrItargetsr n a => a.access (frameOffset 0x800#12 n a.lane)
  | .wrItargetsrRo n a => a.access (frameOffset 0x800#12 n a.lane)
  | .wrIcfgr n a => a.access (frameOffset 0xC00#12 n a.lane)
  | .wrIcfgrRo n a => a.access (frameOffset 0xC00#12 n a.lane)
  | .wrNsacr n a => a.access (frameOffset 0xE00#12 n a.lane)
  | .wrSgir a => a.access (frameOffset 0xF00#12 0#1 a.lane)
  | .wrCpendsgir n a => a.access (frameOffset 0xF10#12 n a.lane)
  | .wrSpendsgir n a => a.access (frameOffset 0xF20#12 n a.lane)
  | .wrPid n a => a.access (frameOffset 0xFD0#12 n a.lane)
  | .wrPidFE0 n a => a.access (frameOffset 0xFE0#12 n a.lane)
  | .wrSgirList v list id => sgirAccess v (0x00#8 ++ list ++ 0x000#12 ++ id)
  | .wrSgirOthers v id => sgirAccess v (0x01#8 ++ 0x00#8 ++ 0x000#12 ++ id)
  | .wrSgirSelf v id => sgirAccess v (0x02#8 ++ 0x00#8 ++ 0x000#12 ++ id)
  | .wrSgirRsvd v val => sgirAccess v val

/-- The encoder: the bytes of an instruction's access tuple. -/
def encode (i : Instr) : List Byte := i.access.toBytes

/-- The bytes of an access whose table word is `w` (log 8). A row of format MMIO has 13 bits, two bytes: the key, and
every bit above it is 0. A row of format "SGIR value" has 32 bits: the value of an aligned word write to 0xF00. -/
def tableWordBytes (nbits w : Nat) : List Byte :=
  if nbits ≤ 16 then
    (List.range 8).map (fun k => BitVec.ofNat 8 (w >>> (8 * k)))
  else (sgirAccess 0#8 (BitVec.ofNat 32 w)).toBytes

/-- The instruction the decoder reads from a word numbered as spec/opcode_table.json numbers it (log 8). -/
def decodeTableWord (nbits w : Nat) : Option Instr :=
  match decode (tableWordBytes nbits w) with
  | .ok i => some i
  | .error _ => none

end Sys2Proof
end

