-- ==== Sys2Proof/Config.lean ====
section
/-! DEFINITION. The configuration parameters of a domain (00_scope.md R7) and the one value the block does not fix
(41_mmio_dispatch.md R135). The parameters are plain data carried in State, so that a statement over all states is a
statement over all configurations. -/

namespace Sys2Proof

/-- A descriptor key (43_enable_disable.md, head; 10_state.md R26): a private line of one vCPU, or a shared line. -/
inductive DescKey where
  | priv (v L : Nat)
  | shared (L : Nat)
  deriving DecidableEq, Repr

/-- The implementation parameters of R7, fixed when the domain is created. `backing` lists the keys that have a backing
physical interrupt; a key it does not list has none (log 19). -/
structure Config where
  /-- `NR_SPI`, the number of shared lines. -/
  nrSpi : Nat
  /-- `NVCPU`, the number of vCPUs. -/
  nvcpu : Nat
  /-- `IIDR_VALUE`. -/
  iidrValue : Word
  /-- `EVTCHN_LINE`, the designated event-channel line. -/
  evtchnLine : Option Nat
  /-- `BACKING`. -/
  backing : List (DescKey × Nat)
  /-- `PROC`, the processor identifiers. -/
  proc : List Nat
  deriving DecidableEq, Repr

/-- The configuration CFG0 of 95_test_vectors.md, which `State.reset` is created with. DESIGN CHOICE (log 1): the
parameters are open in R7. Unsafe for a claim about a run from reset; no statement over all states rests on it. -/
def Config.cfg0 : Config where
  nrSpi := 64
  nvcpu := 2
  iidrValue := 0x0000043B#32
  evtchnLine := some 31
  backing := [(.shared 40, 72)]
  proc := [0, 1, 2, 3]

/-- The value of the k-th SGIR read: `draw u32`, any 32-bit word, a fresh one at each read (R135, D11). It has no body,
so nothing can be proved of a value of it. DESIGN CHOICE of form (log 9). Safe. -/
opaque Config.freeWord : Nat → Word

end Sys2Proof
end

