-- ==== Sys2Proof/Machine/Params.lean ====
section
/-! DEFINITION. The quantities derived from the configuration parameters (00_scope.md R7, R8), and which parameters a
domain may be created with. -/

namespace Sys2Proof

/-- `NLINES = 32 + NR_SPI`: line ids are the naturals below it (R8). -/
def Config.nlines (c : Config) : Nat := 32 + c.nrSpi

/-- `NSR = (NR_SPI + 31) div 32`: the number of shared ranks (R8). -/
def Config.nsr (c : Config) : Nat := (c.nrSpi + 31) / 32

/-- TYPER: `((NVCPU - 1) << 5) | NSR` (30_encoding.md R76, 41_mmio_dispatch.md R129). -/
def Config.typer (c : Config) : Word := BitVec.ofNat 32 (((c.nvcpu - 1) <<< 5) ||| c.nsr)

/-- `BACKING(key)`: the backing physical interrupt of a descriptor key, if it has one (R7). -/
def Config.backingOf (c : Config) (k : DescKey) : Option Nat := c.backing.lookup k

/-- Does the key name a descriptor of the domain (10_state.md R26)? -/
def Config.hasKey (c : Config) : DescKey → Bool
  | .priv v L => decide (v < c.nvcpu) && decide (L < 32)
  | .shared L => decide (32 ≤ L) && decide (L < c.nlines)

/-- The parameter ranges of R7: `NR_SPI ≤ 988`, `1 ≤ NVCPU ≤ 8`, the event-channel line is a line of the domain, and
`BACKING` maps descriptor keys of the domain. -/
def Config.valid (c : Config) : Bool :=
  decide (c.nrSpi ≤ 988) && decide (1 ≤ c.nvcpu) && decide (c.nvcpu ≤ 8) &&
  c.evtchnLine.all (fun L => decide (L < c.nlines)) && c.backing.all (fun e => c.hasKey e.1)

end Sys2Proof
end

