-- ==== Sys2Proof/Machine/State.lean ====
section
/-! DEFINITION. The state of one domain's distributor as plain data (10_state.md), the inputs of the block
(30_encoding.md R91), its output events (R90), and the reasons a step can stop. -/

namespace Sys2Proof.Machine

/-- A Rank: 32 consecutive lines (10_state.md R21). -/
structure Rank where
  enable : Word
  pending : Word
  active : Word
  priority : Vector Byte 32
  target : Vector Byte 32
  config : Vector Word 2
  pendsgi : Vector Byte 16
  deriving DecidableEq, Repr

/-- The zero rank: every field 0 (46_ports_lifecycle.md R254, 70_reset_and_hazards.md R330). -/
def Rank.zero : Rank where
  enable := 0#32
  pending := 0#32
  active := 0#32
  priority := Vector.replicate 32 0#8
  target := Vector.replicate 32 0#8
  config := Vector.replicate 2 0#32
  pendsgi := Vector.replicate 16 0#8

/-- A pending-interrupt descriptor (R25). Its line id is its key (R26). -/
structure Descriptor where
  enabled : Bool
  queued : Bool
  visible : Bool
  active : Bool
  prio : Byte
  linked : Option Nat
  deriving DecidableEq, Repr

/-- The zero descriptor (R333). -/
def Descriptor.zero : Descriptor where
  enabled := false
  queued := false
  visible := false
  active := false
  prio := 0#8
  linked := none

/-- The state of one vCPU (R27). -/
structure VcpuState where
  prank : Rank
  pdesc : Vector Descriptor 32
  inflight : List Nat
  created : Bool
  deriving DecidableEq, Repr

/-- A vCPU that does not exist: not created, with an empty list (R254, R256). `DestroyVcpu` leaves its rank and its
descriptors zero (R256). What they hold before the first `CreateVcpu` the spec leaves open (R254 and R330 give `created`
and `inflight` only): they are zero there too. DESIGN CHOICE (log 24). -/
def VcpuState.absent : VcpuState where
  prank := Rank.zero
  pdesc := Vector.replicate 32 Descriptor.zero
  inflight := []
  created := false

/-- The private rank of a new vCPU `v`: zero, but each target mask names `v` alone (R331). -/
def Rank.ofVcpu (v : Nat) : Rank := { Rank.zero with target := Vector.replicate 32 (1#8 <<< v) }

/-- A vCPU right after `CreateVcpu(v)` (R255, R331). -/
def VcpuState.fresh (v : Nat) : VcpuState where
  prank := Rank.ofVcpu v
  pdesc := Vector.replicate 32 Descriptor.zero
  inflight := []
  created := true

/-- The environment inputs of one vCPU (R33). -/
structure VcpuEnv where
  online : Bool
  runningOn : Option Nat
  blocked : Bool
  upcall : Bool
  deriving DecidableEq, Repr

/-- The initial environment of a vCPU (R334). -/
def VcpuEnv.initial : VcpuEnv where
  online := true
  runningOn := none
  blocked := false
  upcall := false

/-- The events of the output ports (R90). -/
inductive Event where
  | piEnablePhys (p : Nat)
  | piDisablePhys (p : Nat)
  | piRaise (v L : Nat) (prio : Byte)
  | piReraise (v L : Nat)
  | piRemoveFromQueues (v L : Nat)
  /-- No rule emits it (46_ports_lifecycle.md R259). -/
  | piClearAll (v : Nat)
  | notify (p : Nat)
  | wake (v : Nat)
  /-- `Diag(SGI_BAD_FILTER, val)` (45_sgi.md R234). -/
  | diagBadFilter (val : Word)
  /-- `Diag(SGI_BAD_TARGET, j)` (R235). -/
  | diagBadTarget (j : Nat)
  | domainCrash
  deriving DecidableEq, Repr

/-- The outcome of an access (00_scope.md R12). -/
inductive AccessResult where
  | handledRead (x : Word)
  | handled
  | unhandled
  | fatal
  deriving DecidableEq, Repr

/-- An outcome as it is returned to the trap layer for the accessor `v` (R260). -/
structure Reply where
  v : Nat
  result : AccessResult
  deriving DecidableEq, Repr

/-- The injection an operation is in the middle of (44_injection.md R210): none, steps 1 to 4 still to run for line `L`
of vCPU `v`, or step 5 still to run for vCPU `v`. -/
inductive Injection where
  | none
  | link (v L : Nat)
  | notify (v : Nat)
  deriving DecidableEq, Repr

/-- The work an operation has left beside its injection (R41): the remaining bits of an enable or disable transition
with accessor and word index (R190, R194), the remaining targets of SGI line `id` (R235), or nothing. -/
inductive Work where
  | nothing
  | enable (v : Nat) (m : Word) (n : Nat)
  | disable (v : Nat) (m : Word) (n : Nat)
  | fanOut (m : Byte) (id : Nat)
  deriving DecidableEq, Repr

/-- The continuation record of an operation in progress (R41). `accessor` is the vCPU whose access it is, `none` for an
`Inject` call; `cp` is its caller processor (R33). -/
structure Task where
  accessor : Option Nat
  cp : Option Nat
  inj : Injection
  work : Work
  deriving DecidableEq, Repr

/-- The port operations beside the MMIO port (R91). -/
inductive PortOp where
  | inject (v L : Nat) (cp : Option Nat)
  | ciVisible (u L : Nat) (b : Bool)
  | ciActive (u L : Nat) (b : Bool)
  | ciRetire (u L : Nat)
  | createDomain (c : Config)
  | createVcpu (v : Nat)
  | destroyVcpu (v : Nat)
  | destroyDomain
  deriving DecidableEq, Repr

/-- The environment moves (R258). -/
inductive EnvMove where
  | online (v : Nat) (b : Bool)
  | running (v : Nat) (p : Option Nat)
  | blocked (v : Nat) (b : Bool)
  | upcall (v : Nat) (b : Bool)
  deriving DecidableEq, Repr

/-- One item of the input stream. The stream also says which operation in progress moves next, so that every
interleaving of R340 is the run of some stream. DESIGN CHOICE (log 3, 4). Safe. -/
inductive Input where
  /-- The trap layer presents an MMIO access, as the bytes of its tuple (log 6). -/
  | access (bytes : List Byte)
  | port (op : PortOp)
  | env (m : EnvMove)
  /-- The k-th operation in progress makes its next atomic step. -/
  | resume (k : Nat)
  /-- Nothing else moves until no operation is in progress. -/
  | await
  deriving DecidableEq, Repr

/-- Does the domain exist? Before `CreateDomain`, between it and `DestroyDomain`, and after (R254, R257; log 12). -/
inductive Phase where
  | absent
  | live
  | destroyed
  deriving DecidableEq, Repr

/-- Why a port call has no step (41_mmio_dispatch.md R120, R139; 46_ports_lifecycle.md R250 to R257). -/
inductive PortRefusal where
  /-- There is no domain (R254, R257). Safe: the spec refuses the call. -/
  | noDomain
  /-- `CreateDomain` where there is, or was, a domain (R257, log 12). Safe. -/
  | domainExists
  /-- `CreateDomain` with parameters outside the ranges of R7 (log 18). Safe. -/
  | badParameters
  /-- `D.terminated` (R139). Safe: the spec refuses the call. -/
  | terminated
  /-- The vCPU id is not below `NVCPU`, or the vCPU is not created (R120, R250 to R253, R256). Safe. -/
  | noSuchVcpu
  /-- `CreateVcpu` of a created vCPU (R255). Safe. -/
  | alreadyCreated
  /-- The line id is not below `NLINES` (R250 to R253). Safe. -/
  | noSuchLine
  /-- A collaborator call on a line that is not in the vCPU's inflight list (R251 to R253). Safe. -/
  | notLinked
  /-- An access by a vCPU whose earlier access is still in progress (R261), a teardown with an operation in progress
  (R256, R257, R336, log 16). Unsafe only for a teardown that R336 refuses and R256 alone would not. -/
  | inProgress
  /-- An environment move of a vCPU id not below `NVCPU`, or to a processor outside `PROC` (R258, log 13). Safe. -/
  | badEnvironment
  deriving DecidableEq, Repr

/-- The faults of a step. The block itself has none: its Fatal outcome is a next state (60_exceptions.md R301). -/
inductive Fault where
  /-- Raised by `advance`: the input stream names an operation in progress that does not exist, so the interleaving it
  asks for is none of R340. Safe: nothing the block can do is lost (log 4). -/
  | noSuchOperation (k : Nat)
  deriving DecidableEq, Repr

/-- The refusals of a step. -/
inductive Refusal where
  /-- Raised by `exec` for an instruction that has no meaning yet. Safe. -/
  | notModelled (mnemonic : String)
  /-- Raised by `step`: the bytes presented are no access tuple (R51, R89; log 7). Safe: no such access exists. -/
  | undecodable (e : DecodeError)
  /-- Raised by the meanings and the port operations: the spec gives the call no step. Safe. `step` takes such a call
  off the stream and goes on (log 5). -/
  | port (c : PortRefusal)
  deriving DecidableEq, Repr

/-- The state: the domain record D (R20), the environment inputs (R33), the event history H (R34), the operations in
progress (R41), and the model's own `replies`, `refusals`, `draws` and `inputs` (INVENTORY.md, State). -/
structure State where
  /-- Does the domain exist (R254, R257)? -/
  phase : Phase
  /-- The parameters of the domain (R7); no operation but `CreateDomain` sets them. -/
  cfg : Config
  /-- `D.ctlr` (R31). -/
  ctlr : BitVec 1
  /-- `D.terminated` (R32). -/
  terminated : Bool
  /-- `D.shared[r]` at index `r - 1`, for r in 1..`NSR` (R20). -/
  shared : List Rank
  /-- `D.spi[L]` at index `L - 32`, for L in 32..`NLINES`-1 (R20). -/
  spi : List Descriptor
  /-- `D.vcpu[v]` at index `v` (R20). -/
  vcpu : List VcpuState
  /-- The environment inputs of vCPU `v` at index `v` (R33). -/
  env : List VcpuEnv
  /-- The event history H, oldest first (R34). -/
  history : List Event
  /-- The operations in progress, oldest first (R41). -/
  tasks : List Task
  /-- The outcomes returned to the trap layer, oldest first (R12, R260; the model's own, log 11). -/
  replies : List Reply
  /-- The port calls refused, oldest first (the model's own, log 5). -/
  refusals : List PortRefusal
  /-- How many free values SGIR reads have drawn (the model's own, log 9). -/
  draws : Nat
  /-- The input stream still to come (the model's own, log 3). -/
  inputs : List Input
  deriving DecidableEq, Repr

/-- What a step or a meaning answers. -/
abbrev Result := Host.Outcome State Fault Refusal

/-- A domain right after `CreateDomain` with parameters `c` (R254, R330, R334): controller off, ranks and shared
descriptors zero, no vCPU created, the initial environment, an empty history, no operation in progress. The rank and the
descriptors of a vCPU not yet created are zero by the model's choice (log 24). -/
def State.created (c : Config) : State where
  phase := .live
  cfg := c
  ctlr := 0#1
  terminated := false
  shared := List.replicate c.nsr Rank.zero
  spi := List.replicate c.nrSpi Descriptor.zero
  vcpu := List.replicate c.nvcpu VcpuState.absent
  env := List.replicate c.nvcpu VcpuEnv.initial
  history := []
  tasks := []
  replies := []
  refusals := []
  draws := 0
  inputs := []

/-- The machine right after reset: the block's reset is the creation of a domain (70_reset_and_hazards.md, head and
R330). The parameters are those of CFG0 of 95_test_vectors.md, DESIGN CHOICE (log 1); no vCPU is created yet and no
input is pending (log 2, 3). -/
def State.reset : State := State.created Config.cfg0

end Sys2Proof.Machine
end

