-- ==== Sys2Proof/Machine/Flags.lean ====
section
/-! DEFINITION. The descriptor status bits are the block's only flags (10_state.md R40). Every way a rule writes them is
one function here. -/

namespace Sys2Proof.Machine

/-- The enable step marks the line enabled (43_enable_disable.md R191). -/
def Descriptor.enable (d : Descriptor) : Descriptor := { d with enabled := true }

/-- The disable step: not enabled, not queued, not linked; `visible` and `active` stay (R195). -/
def Descriptor.disable (d : Descriptor) : Descriptor :=
  { d with enabled := false, queued := false, linked := none }

/-- Inject step 1, coalescing: re-triggered while pending (44_injection.md R211). -/
def Descriptor.retrigger (d : Descriptor) : Descriptor := { d with queued := true }

/-- Inject step 3: the priority snapshot of a new entry, queued, neither visible nor active (R213). -/
def Descriptor.snapshot (d : Descriptor) (p : Byte) : Descriptor :=
  { d with prio := p, queued := true, visible := false, active := false }

/-- Inject step 4: linked into `v`'s list (R214). -/
def Descriptor.linkTo (d : Descriptor) (v : Nat) : Descriptor := { d with linked := some v }

/-- `CI_Visible` (46_ports_lifecycle.md R251). -/
def Descriptor.setVisible (d : Descriptor) (b : Bool) : Descriptor := { d with visible := b }

/-- `CI_Active` (R252). -/
def Descriptor.setActive (d : Descriptor) (b : Bool) : Descriptor := { d with active := b }

/-- `CI_Retire` (R253): not linked, queued, visible or active; `enabled` and `prio` stay. -/
def Descriptor.retire (d : Descriptor) : Descriptor :=
  { d with linked := none, queued := false, visible := false, active := false }

/-- What `DestroyVcpu` does to a shared line in the vCPU's list (R256); `enabled` and `prio` stay. -/
def Descriptor.release (d : Descriptor) : Descriptor :=
  { d with linked := none, queued := false, visible := false, active := false }

end Sys2Proof.Machine
end

