-- ==== Sys2Proof/Machine/Operands.lean ====
section
/-! DEFINITION. The pure helpers of the register accesses: lanes of a word, packed byte arrays, the register groups with
their widths and bits per line, and the masks of valid lines (20_memory.md R53 to R59, 40_rank_store.md R100 to R110,
41_mmio_dispatch.md R121, R123). None of them writes state. -/

namespace Sys2Proof.Machine

/-- The OR of `f 0`, …, `f (k-1)`: the form in which the spec writes its masks (R104, 45_sgi.md R232). -/
def orOver {w : Nat} (f : Nat → BitVec w) : Nat → BitVec w
  | 0 => 0#w
  | k + 1 => orOver f k ||| f k

/-- `lane(x, k)` (R105): bits [8k+7:8k]. -/
def lane (x : Word) (k : Nat) : Byte := x.extractLsb' (8 * k) 8

/-- `setlane(x, k, y)` (R105). -/
def setlane (x : Word) (k : Nat) (y : Byte) : Word :=
  (x &&& ~~~(0xFF#32 <<< (8 * k))) ||| (y.setWidth 32 <<< (8 * k))

/-- `ReadByte(x, off, sg)` (R106): the addressed lane, sign-extended when `sg` is set, else zero-extended. -/
def readByte (x : Word) (l : BitVec 2) (sg : Bool) : Word :=
  if sg then (lane x l.toNat).signExtend 32 else (lane x l.toNat).setWidth 32

/-- The value a byte-or-word read returns of the register word `x` (R58): the whole word, or the addressed byte. -/
def readValue (x : Word) (a : ReadArgs) : Word :=
  if a.sz = .word then x else readByte x a.lane a.sg

/-- `Pack(a, w)` (R107): `{a[4w+3], a[4w+2], a[4w+1], a[4w]}`. -/
def pack {n : Nat} (a : Vector Byte n) (w : Nat) : Word :=
  a.getD (4 * w + 3) 0#8 ++ a.getD (4 * w + 2) 0#8 ++ a.getD (4 * w + 1) 0#8 ++ a.getD (4 * w) 0#8

/-- `VM1(r)`, the valid-line mask of rank `r` (R104); also `mask1(r)`. -/
def validMask (c : Config) (r : Nat) : Word :=
  if r = 0 then BitVec.allOnes 32
  else orOver (fun i => if 32 * r + i < c.nlines then 1#32 <<< i else 0#32) 32

/-- `laneok(r, w, k)` (R104): byte lane `k` of 8-bit word `w` belongs to a valid line. -/
def laneOk (c : Config) (r w k : Nat) : Bool := (validMask c r).getLsbD (4 * w + k)

/-- `mask2(r, w)` (R104): the 2-bit fields of config word `w` that belong to valid lines. -/
def mask2 (c : Config) (r w : Nat) : Word :=
  orOver (fun j => if (validMask c r).getLsbD (16 * w + j) then 3#32 <<< (2 * j) else 0#32) 16

/-- Store `y` into byte `4w + k` of the array when lane `k` belongs to a valid line (R107). -/
def storeLane (c : Config) (r w : Nat) (a : Vector Byte 32) (k : Nat) (y : Byte) : Vector Byte 32 :=
  if laneOk c r w k then a.setIfInBounds (4 * w + k) y else a

/-- The array after a write to 8-bit word `w` of rank `r` (R163, R166): a word write stores its four lanes, a byte
write stores `val[7:0]` into the addressed lane (R59); lanes of invalid lines are dropped. -/
def storeBytes (c : Config) (r w : Nat) (a : Vector Byte 32) (x : WriteArgs) : Vector Byte 32 :=
  if x.sz = .word then
    let a0 := storeLane c r w a 0 (lane x.val 0)
    let a1 := storeLane c r w a0 1 (lane x.val 1)
    let a2 := storeLane c r w a1 2 (lane x.val 2)
    storeLane c r w a2 3 (lane x.val 3)
  else storeLane c r w a x.lane.toNat (x.val.setWidth 8)

/-- The config words after a write to config word `w` of rank `r` (R110). -/
def storeConfig (c : Config) (r w : Nat) (a : Vector Word 2) (val : Word) : Vector Word 2 :=
  a.setIfInBounds w ((a.getD w 0#32 &&& ~~~(mask2 c r w)) ||| (val &&& mask2 c r w))

/-- The register groups of R72. ITARGETSR and ICFGR stand for both of their parts (R121). -/
inductive Group where
  | ctlr | typer | iidr | rsvd | impdef | pid | sgir
  | igroupr | isenabler | icenabler | ispendr | icpendr | isactiver | icactiver
  | ipriorityr | itargetsr | icfgr | nsacr
  | cpendsgir | spendsgir
  deriving DecidableEq, Repr

/-- `b(g)`: the bits per line of a per-line group (R100, R121); `none` for a group that is not per-line. -/
def Group.bitsPerLine : Group → Option Nat
  | .igroupr | .isenabler | .icenabler | .ispendr | .icpendr | .isactiver | .icactiver => some 1
  | .icfgr | .nsacr => some 2
  | .ipriorityr | .itargetsr => some 8
  | .ctlr | .typer | .iidr | .rsvd | .impdef | .pid | .sgir | .cpendsgir | .spendsgir => none

/-- The groups that allow byte accesses, in both directions (R123). -/
def Group.allowsBytes : Group → Bool
  | .ispendr | .icpendr | .ipriorityr | .itargetsr | .cpendsgir | .spendsgir => true
  | .ctlr | .typer | .iidr | .rsvd | .impdef | .pid | .sgir | .igroupr | .isenabler | .icenabler | .isactiver
  | .icactiver | .icfgr | .nsacr => false

/-- `WidthOK(g, W, sz, off)` (R123): an aligned word, or a byte where the group allows bytes. -/
def widthOk (g : Group) (sz : Size) (l : BitVec 2) : Bool :=
  (sz == .word && l == 0#2) || (sz == .byte && g.allowsBytes)

/-- The lowest set bit of a mask, if it has one: the order of every "for each set bit ascending" (00_scope.md R11). -/
def lowestBit {w : Nat} (m : BitVec w) : Option Nat := (List.range w).find? (fun i => m.getLsbD i)

/-- The mask without bit `i`. -/
def clearBit {w : Nat} (m : BitVec w) (i : Nat) : BitVec w := m &&& ~~~(1#w <<< i)

/-- `Insert(s, L, p)` (44_injection.md R217): before the first element of strictly greater priority value. -/
def insertByPrio (prio : Nat → Byte) : List Nat → Nat → Byte → List Nat
  | [], L, _ => [L]
  | x :: s, L, p => if p < prio x then L :: x :: s else x :: insertByPrio prio s L p

/-- `Key(v, L)` (43_enable_disable.md, head). -/
def descKey (v L : Nat) : DescKey := if L < 32 then .priv v L else .shared L

end Sys2Proof.Machine
end

