-- ==== Sys2Proof/Machine/Ops.lean ====
section
/-! DEFINITION. The named operations over the state: every read and write of a rank, a descriptor, an inflight list, the
environment and the history goes through them; the Fatal outcome, which is the block's only exception
(60_exceptions.md R301); and the dispatch procedure every access goes through (41_mmio_dispatch.md R120). -/

namespace Sys2Proof.Machine

/-! ### Reading -/

/-- `D.vcpu[v]`; a vCPU that is not listed does not exist (log 14). -/
def State.vcpuAt (s : State) (v : Nat) : VcpuState := s.vcpu.getD v VcpuState.absent

/-- The environment inputs of vCPU `v` (R33). -/
def State.envAt (s : State) (v : Nat) : VcpuEnv := s.env.getD v VcpuEnv.initial

/-- Rank `r` as vCPU `v` names it: its own private rank for 0, else the shared rank (R22, R101). -/
def State.rankAt (s : State) (v r : Nat) : Rank :=
  if r = 0 then (s.vcpuAt v).prank else s.shared.getD (r - 1) Rank.zero

/-- `resolve_rank(v, b, n)` (40_rank_store.md R101): `none` is "absent". -/
def State.resolveRank (s : State) (v b n : Nat) : Option Rank :=
  if n / b = 0 then some (s.vcpuAt v).prank
  else if n / b ≤ s.cfg.nsr then some (s.shared.getD (n / b - 1) Rank.zero)
  else none

/-- `Desc(v, L)` (10_state.md R26). -/
def State.desc (s : State) (v L : Nat) : Descriptor :=
  if L < 32 then (s.vcpuAt v).pdesc.getD L Descriptor.zero else s.spi.getD (L - 32) Descriptor.zero

/-- `D.vcpu[v].inflight` (R27). -/
def State.inflight (s : State) (v : Nat) : List Nat := (s.vcpuAt v).inflight

/-- `PriorityOf(v, L)` (R108, R109): the priority byte of the line's rank. -/
def State.priorityOf (s : State) (v L : Nat) : Byte := (s.rankAt v (L / 32)).priority.getD (L % 32) 0#8

/-! ### Writing -/

/-- Replace `D.vcpu[v]`. -/
def State.setVcpu (s : State) (v : Nat) (x : VcpuState) : State := { s with vcpu := s.vcpu.set v x }

/-- Replace rank `r` as vCPU `v` names it (R22). -/
def State.setRank (s : State) (v r : Nat) (R : Rank) : State :=
  { s with
    vcpu := if r = 0 then s.vcpu.set v { s.vcpuAt v with prank := R } else s.vcpu
    shared := if r = 0 then s.shared else s.shared.set (r - 1) R }

/-- Replace `Desc(v, L)` (R26). -/
def State.setDesc (s : State) (v L : Nat) (d : Descriptor) : State :=
  { s with
    vcpu := if L < 32 then s.vcpu.set v { s.vcpuAt v with pdesc := (s.vcpuAt v).pdesc.setIfInBounds L d } else s.vcpu
    spi := if L < 32 then s.spi else s.spi.set (L - 32) d }

/-- Replace `D.vcpu[v].inflight`. -/
def State.setInflight (s : State) (v : Nat) (l : List Nat) : State :=
  { s with vcpu := s.vcpu.set v { s.vcpuAt v with inflight := l } }

/-- Replace the environment inputs of vCPU `v` (R258). -/
def State.setEnv (s : State) (v : Nat) (e : VcpuEnv) : State := { s with env := s.env.set v e }

/-- Append events to the history, in order (R34). -/
def State.emitAll (s : State) (es : List Event) : State := { s with history := s.history ++ es }

/-- Append one event to the history (R34). -/
def State.emit (s : State) (e : Event) : State := s.emitAll [e]

/-- Return an outcome to the trap layer for the accessor `v` (R12, R260). -/
def State.reply (s : State) (v : Nat) (x : AccessResult) : State := { s with replies := s.replies ++ [⟨v, x⟩] }

/-- The Fatal outcome (60_exceptions.md R301), the block's only exception: the domain is terminated, `DomainCrash` is
emitted, `Fatal` is returned, and nothing else of D changes. The operations in progress have no further step (R139), so
they are in progress no more (log 10). -/
def State.fatal (s : State) (v : Nat) : State :=
  { s with
    terminated := true
    history := s.history ++ [.domainCrash]
    replies := s.replies ++ [⟨v, .fatal⟩]
    tasks := [] }

/-- How the trap layer reads an outcome (R260): the `handled` flag, and the value of a handled read. -/
def AccessResult.toTrap : AccessResult → Bool × Option Word
  | .handledRead x => (true, some x)
  | .handled => (true, none)
  | .unhandled => (false, none)
  | .fatal => (false, none)

/-! ### Operations in progress (10_state.md R41) -/

/-- Has the work no atomic step left? -/
def Work.isDone : Work → Bool
  | .nothing => true
  | .enable _ m _ => m == 0#32
  | .disable _ m _ => m == 0#32
  | .fanOut m _ => m == 0#8

/-- Has the operation no atomic step left (R41)? -/
def Task.isDone (t : Task) : Bool := t.inj == .none && t.work.isDone

/-- An operation has made its last atomic step: an access returns `Handled` (R261), an `Inject` call returns nothing. -/
def State.complete (s : State) (t : Task) : State :=
  match t.accessor with
  | some v => s.reply v .handled
  | none => s

/-- An operation has made its first atomic step and `t` is what it has left: it goes on, or it is complete (R41; log
15). -/
def State.begin (s : State) (t : Task) : State :=
  if t.isDone then s.complete t else { s with tasks := s.tasks ++ [t] }

/-- Is an access of vCPU `v` in progress (R261)? -/
def Task.isAccessOf (t : Task) (v : Nat) : Bool := t.accessor == some v

/-! ### Dispatch -/

/-- The preconditions of an operation on an existing vCPU: a domain that is not terminated, and a created vCPU (R120,
R139, R250 to R253). -/
def State.vcpuRefusal (s : State) (v : Nat) : Option PortRefusal :=
  if s.phase ≠ .live then some .noDomain
  else if s.terminated then some .terminated
  else if ¬ (v < s.cfg.nvcpu) ∨ (s.vcpuAt v).created = false then some .noSuchVcpu
  else none

/-- The preconditions of an access by vCPU `v` (R120), and that it makes one access at a time (R261). -/
def State.accessRefusal (s : State) (v : Nat) : Option PortRefusal :=
  match s.vcpuRefusal v with
  | some c => some c
  | none => if s.tasks.any (fun t => t.isAccessOf v) then some .inProgress else none

/-- Is word `n` of the group in an absent rank (R120, R121)? Never for a group that is not per-line. -/
def State.rankAbsent (s : State) (g : Group) (v n : Nat) : Bool :=
  match g.bitsPerLine with
  | none => false
  | some b => (s.resolveRank v b n).isNone

/-- `Access(v, W, off, sz, sg, val)` (R120, R305): refused, else benign on an absent rank whatever the width (R122),
else Fatal on a width the group does not allow (R123, R301), else the group's rule. `benign` is what an absent rank
returns. -/
def access (g : Group) (n v : Nat) (sz : Size) (l : BitVec 2) (benign : AccessResult) (perform : State → Result)
    (s : State) : Result :=
  match s.accessRefusal v with
  | some c => .refused (.port c)
  | none =>
    if s.rankAbsent g v n then .next (s.reply v benign)
    else if widthOk g sz l then perform s
    else .next (s.fatal v)

/-- A read of word `n` of group `g`: one atomic step, which returns `f s` (R126). -/
def readAccess (g : Group) (n : Nat) (a : ReadArgs) (f : State → AccessResult) (s : State) : Result :=
  access g n a.v.toNat a.sz a.lane (.handledRead 0#32) (fun s => .next (s.reply a.v.toNat (f s))) s

/-- A write of word `n` of group `g` that is one atomic step, `f`, and returns `Handled` (R340). -/
def writeAccess (g : Group) (n : Nat) (a : WriteArgs) (f : State → State) (s : State) : Result :=
  access g n a.v.toNat a.sz a.lane .handled (fun s => .next ((f s).reply a.v.toNat .handled)) s

/-- A write the block does not emulate: `Unhandled`, no state change, no event (R125, R303). -/
def unhandledWrite (g : Group) (n : Nat) (a : WriteArgs) (s : State) : Result :=
  access g n a.v.toNat a.sz a.lane .handled (fun s => .next (s.reply a.v.toNat .unhandled)) s

end Sys2Proof.Machine
end

