-- ==== Sys2Proof/Machine/Active.lean ====
section
/-! DEFINITION. The set-active and clear-active registers (42_mmio_line_registers.md R158 to R161). -/

namespace Sys2Proof.Machine

/-- RD.ISACTIVER (R158): the active bitmap of the rank. -/
def execRdIsactiver (n : BitVec 5) (a : ReadArgs) (s : State) : Result :=
  readAccess .isactiver n.toNat a (fun s => .handledRead (s.rankAt a.v.toNat n.toNat).active) s

/-- RD.ICACTIVER (R159): the active bitmap of the rank. -/
def execRdIcactiver (n : BitVec 5) (a : ReadArgs) (s : State) : Result :=
  readAccess .icactiver n.toNat a (fun s => .handledRead (s.rankAt a.v.toNat n.toNat).active) s

/-- WR.ISACTIVER (R160): accepted, no effect. -/
def execWrIsactiver (n : BitVec 5) (a : WriteArgs) (s : State) : Result := writeAccess .isactiver n.toNat a id s

/-- The active bitmap of rank `n` with the written bits of valid lines cleared (R161). -/
def clearActive (s : State) (v n : Nat) (val : Word) : State :=
  s.setRank v n { s.rankAt v n with active := (s.rankAt v n).active &&& ~~~(val &&& validMask s.cfg n) }

/-- WR.ICACTIVER (R161): clears bits of the rank's bitmap; descriptors and inflight lists are not touched. -/
def execWrIcactiver (n : BitVec 5) (a : WriteArgs) (s : State) : Result :=
  writeAccess .icactiver n.toNat a (fun s => clearActive s a.v.toNat n.toNat a.val) s


end Sys2Proof.Machine
end

