-- ==== Sys2Proof/Machine/Control.lean ====
section
/-! DEFINITION. The control, type and implementer identification registers (41_mmio_dispatch.md R127 to R130). -/

namespace Sys2Proof.Machine

/-- RD.CTLR (R127): the enable bit, zero-extended. -/
def execRdCtlr (a : ReadArgs) (s : State) : Result :=
  readAccess .ctlr 0 a (fun s => .handledRead (s.ctlr.setWidth 32)) s

/-- WR.CTLR (R128): bit 0 is kept. -/
def execWrCtlr (a : WriteArgs) (s : State) : Result :=
  writeAccess .ctlr 0 a (fun s => { s with ctlr := a.val.extractLsb' 0 1 }) s

/-- RD.TYPER (R129): computed from the vCPU count and the line count. -/
def execRdTyper (a : ReadArgs) (s : State) : Result :=
  readAccess .typer 0 a (fun s => .handledRead s.cfg.typer) s

/-- WR.TYPER (R129): ignored. -/
def execWrTyper (a : WriteArgs) (s : State) : Result := writeAccess .typer 0 a id s

/-- RD.IIDR (R130): the parameter `IIDR_VALUE`. -/
def execRdIidr (a : ReadArgs) (s : State) : Result :=
  readAccess .iidr 0 a (fun s => .handledRead s.cfg.iidrValue) s

/-- WR.IIDR (R130): ignored. -/
def execWrIidr (a : WriteArgs) (s : State) : Result := writeAccess .iidr 0 a id s

end Sys2Proof.Machine
end

