-- ==== Sys2Proof/Machine/Enable.lean ====
section
/-! DEFINITION. The set-enable and clear-enable registers (42_mmio_line_registers.md R150 to R153). -/

namespace Sys2Proof.Machine

/-- RD.ISENABLER (R150): the enable bitmap of the rank. -/
def execRdIsenabler (n : BitVec 5) (a : ReadArgs) (s : State) : Result :=
  readAccess .isenabler n.toNat a (fun s => .handledRead (s.rankAt a.v.toNat n.toNat).enable) s

/-- RD.ICENABLER (R151): the enable bitmap of the rank. -/
def execRdIcenabler (n : BitVec 5) (a : ReadArgs) (s : State) : Result :=
  readAccess .icenabler n.toNat a (fun s => .handledRead (s.rankAt a.v.toNat n.toNat).enable) s

/-- The bits a set-enable write newly sets (R152): valid lines only, not set before. -/
def newlyEnabled (s : State) (v n : Nat) (val : Word) : Word :=
  (val &&& validMask s.cfg n) &&& ~~~(s.rankAt v n).enable

/-- The bits a clear-enable write newly clears (R153): valid lines only, set before. -/
def newlyDisabled (s : State) (v n : Nat) (val : Word) : Word :=
  (val &&& validMask s.cfg n) &&& (s.rankAt v n).enable

/-- The rank phase of a set-enable write (R152, R341). -/
def setEnable (s : State) (v n : Nat) (val : Word) : State :=
  s.setRank v n { s.rankAt v n with enable := (s.rankAt v n).enable ||| (val &&& validMask s.cfg n) }

/-- The rank phase of a clear-enable write (R153, R341). -/
def clearEnable (s : State) (v n : Nat) (val : Word) : State :=
  s.setRank v n { s.rankAt v n with enable := (s.rankAt v n).enable &&& ~~~(val &&& validMask s.cfg n) }

/-- WR.ISENABLER (R152): the rank phase is the first atomic step; one `EnableStep` per newly set bit is left to do
(43_enable_disable.md R190, 70_reset_and_hazards.md R343). -/
def execWrIsenabler (n : BitVec 5) (a : WriteArgs) (s : State) : Result :=
  access .isenabler n.toNat a.v.toNat a.sz a.lane .handled
    (fun s => .next ((setEnable s a.v.toNat n.toNat a.val).begin
      { accessor := some a.v.toNat
        cp := (s.envAt a.v.toNat).runningOn
        inj := .none
        work := .enable a.v.toNat (newlyEnabled s a.v.toNat n.toNat a.val) n.toNat })) s

/-- WR.ICENABLER (R153): the rank phase is the first atomic step; one `DisableStep` per newly cleared bit is left to do
(43_enable_disable.md R194, 70_reset_and_hazards.md R343). -/
def execWrIcenabler (n : BitVec 5) (a : WriteArgs) (s : State) : Result :=
  access .icenabler n.toNat a.v.toNat a.sz a.lane .handled
    (fun s => .next ((clearEnable s a.v.toNat n.toNat a.val).begin
      { accessor := some a.v.toNat
        cp := (s.envAt a.v.toNat).runningOn
        inj := .none
        work := .disable a.v.toNat (newlyDisabled s a.v.toNat n.toNat a.val) n.toNat })) s


end Sys2Proof.Machine
end

