-- ==== Sys2Proof/Machine/Fixed.lean ====
section
/-! DEFINITION. The registers that read as zero and the peripheral identification registers (41_mmio_dispatch.md R131 to R134,
R137, R138). -/

namespace Sys2Proof.Machine

/-- A read that returns zero (R131 to R134). -/
def zeroRead (g : Group) (n : Nat) (a : ReadArgs) (s : State) : Result :=
  readAccess g n a (fun _ => .handledRead 0#32) s

/-- RD.RSVD (R133; the default reserved row): zero. -/
def execRdRsvd (_ : BitVec 10) (a : ReadArgs) (s : State) : Result := zeroRead .rsvd 0 a s

/-- WR.RSVD (R133; the default reserved row): ignored. -/
def execWrRsvd (_ : BitVec 10) (a : WriteArgs) (s : State) : Result := writeAccess .rsvd 0 a id s

/-- RD.RSVD (R133; 0x7FC): zero. -/
def execRdRsvd7FC (a : ReadArgs) (s : State) : Result := zeroRead .rsvd 0 a s

/-- WR.RSVD (R133; 0x7FC): ignored. -/
def execWrRsvd7FC (a : WriteArgs) (s : State) : Result := writeAccess .rsvd 0 a id s

/-- RD.RSVD (R133; 0xBFC): zero. -/
def execRdRsvdBFC (a : ReadArgs) (s : State) : Result := zeroRead .rsvd 0 a s

/-- WR.RSVD (R133; 0xBFC): ignored. -/
def execWrRsvdBFC (a : WriteArgs) (s : State) : Result := writeAccess .rsvd 0 a id s

/-- RD.IMPDEF (R134; 0x020-0x03C): zero. -/
def execRdImpdef (_ : BitVec 3) (a : ReadArgs) (s : State) : Result := zeroRead .impdef 0 a s

/-- WR.IMPDEF (R134; 0x020-0x03C): ignored. -/
def execWrImpdef (_ : BitVec 3) (a : WriteArgs) (s : State) : Result := writeAccess .impdef 0 a id s

/-- RD.IMPDEF (R134; 0xD00-0xDFC): zero. -/
def execRdImpdefD00 (_ : BitVec 6) (a : ReadArgs) (s : State) : Result := zeroRead .impdef 0 a s

/-- WR.IMPDEF (R134; 0xD00-0xDFC): ignored. -/
def execWrImpdefD00 (_ : BitVec 6) (a : WriteArgs) (s : State) : Result := writeAccess .impdef 0 a id s

/-- RD.IGROUPR (R131; per-line, b = 1): zero. -/
def execRdIgroupr (n : BitVec 5) (a : ReadArgs) (s : State) : Result := zeroRead .igroupr n.toNat a s

/-- WR.IGROUPR (R131; per-line, b = 1): ignored. -/
def execWrIgroupr (n : BitVec 5) (a : WriteArgs) (s : State) : Result := writeAccess .igroupr n.toNat a id s

/-- RD.NSACR (R132; per-line, b = 2): zero. -/
def execRdNsacr (n : BitVec 6) (a : ReadArgs) (s : State) : Result := zeroRead .nsacr n.toNat a s

/-- WR.NSACR (R132; per-line, b = 2): ignored. -/
def execWrNsacr (n : BitVec 6) (a : WriteArgs) (s : State) : Result := writeAccess .nsacr n.toNat a id s

/-- RD.PID (R138; 0xFD0-0xFDC): `Unhandled`. -/
def execRdPid (_ : BitVec 2) (a : ReadArgs) (s : State) : Result :=
  readAccess .pid 0 a (fun _ => .unhandled) s

/-- WR.PID (R137; 0xFD0-0xFDC): ignored. -/
def execWrPid (_ : BitVec 2) (a : WriteArgs) (s : State) : Result := writeAccess .pid 0 a id s

/-- RD.PID (R138; 0xFE0-0xFFC): `Unhandled`. -/
def execRdPidFE0 (_ : BitVec 3) (a : ReadArgs) (s : State) : Result :=
  readAccess .pid 0 a (fun _ => .unhandled) s

/-- WR.PID (R137; 0xFE0-0xFFC): ignored. -/
def execWrPidFE0 (_ : BitVec 3) (a : WriteArgs) (s : State) : Result := writeAccess .pid 0 a id s


end Sys2Proof.Machine
end

