-- ==== Sys2Proof/Machine/Lines.lean ====
section
/-! DEFINITION. The priority, target and config registers (42_mmio_line_registers.md R162 to R169). -/

namespace Sys2Proof.Machine

/-- RD.IPRIORITYR (R162): four priority bytes, or the addressed one. -/
def execRdIpriorityr (n : BitVec 8) (a : ReadArgs) (s : State) : Result :=
  readAccess .ipriorityr n.toNat a
    (fun s => .handledRead (readValue (pack (s.rankAt a.v.toNat (n.toNat / 8)).priority (n.toNat % 8)) a)) s

/-- The state after a write to priority word `n` (R163). -/
def storePriority (s : State) (n : Nat) (a : WriteArgs) : State :=
  s.setRank a.v.toNat (n / 8) { s.rankAt a.v.toNat (n / 8) with
    priority := storeBytes s.cfg (n / 8) (n % 8) (s.rankAt a.v.toNat (n / 8)).priority a }

/-- WR.IPRIORITYR (R163): the priority bytes of the valid lines written; snapshots of inflight lines stay. -/
def execWrIpriorityr (n : BitVec 8) (a : WriteArgs) (s : State) : Result :=
  writeAccess .ipriorityr n.toNat a (fun s => storePriority s n.toNat a) s

/-- RD.ITARGETSR (R164): four target masks, or the addressed one. -/
def execRdItargetsr (n : BitVec 8) (a : ReadArgs) (s : State) : Result :=
  readAccess .itargetsr n.toNat a
    (fun s => .handledRead (readValue (pack (s.rankAt a.v.toNat (n.toNat / 8)).target (n.toNat % 8)) a)) s

/-- WR.ITARGETSR.RO (R165): words 0 to 7 ignore writes. -/
def execWrItargetsrRo (n : BitVec 3) (a : WriteArgs) (s : State) : Result := writeAccess .itargetsr n.toNat a id s

/-- The state after a write to target word `n` (R166). -/
def storeTarget (s : State) (n : Nat) (a : WriteArgs) : State :=
  s.setRank a.v.toNat (n / 8) { s.rankAt a.v.toNat (n / 8) with
    target := storeBytes s.cfg (n / 8) (n % 8) (s.rankAt a.v.toNat (n / 8)).target a }

/-- WR.ITARGETSR (R166): the target masks of the valid lines written; any mask is stored. -/
def execWrItargetsr (n : BitVec 8) (a : WriteArgs) (s : State) : Result :=
  writeAccess .itargetsr n.toNat a (fun s => storeTarget s n.toNat a) s

/-- RD.ICFGR (R167): the config word. -/
def execRdIcfgr (n : BitVec 6) (a : ReadArgs) (s : State) : Result :=
  readAccess .icfgr n.toNat a
    (fun s => .handledRead ((s.rankAt a.v.toNat (n.toNat / 2)).config.getD (n.toNat % 2) 0#32)) s

/-- WR.ICFGR.RO (R168): words 0 and 1 ignore writes. -/
def execWrIcfgrRo (n : BitVec 1) (a : WriteArgs) (s : State) : Result := writeAccess .icfgr n.toNat a id s

/-- The state after a write to config word `n` (R169). -/
def storeCfgWord (s : State) (n : Nat) (a : WriteArgs) : State :=
  s.setRank a.v.toNat (n / 2) { s.rankAt a.v.toNat (n / 2) with
    config := storeConfig s.cfg (n / 2) (n % 2) (s.rankAt a.v.toNat (n / 2)).config a.val }

/-- WR.ICFGR (R169): the fields of the valid lines are stored. -/
def execWrIcfgr (n : BitVec 6) (a : WriteArgs) (s : State) : Result :=
  writeAccess .icfgr n.toNat a (fun s => storeCfgWord s n.toNat a) s


end Sys2Proof.Machine
end

