-- ==== Sys2Proof/Machine/Pending.lean ====
section
/-! DEFINITION. The set-pending and clear-pending registers and the SGI pending-source registers (42_mmio_line_registers.md R154 to
R157, R170 to R173). -/

namespace Sys2Proof.Machine

/-- RD.ISPENDR (R154): the pending bitmap, or its addressed byte. -/
def execRdIspendr (n : BitVec 5) (a : ReadArgs) (s : State) : Result :=
  readAccess .ispendr n.toNat a (fun s => .handledRead (readValue (s.rankAt a.v.toNat n.toNat).pending a)) s

/-- RD.ICPENDR (R155): the pending bitmap, or its addressed byte. -/
def execRdIcpendr (n : BitVec 5) (a : ReadArgs) (s : State) : Result :=
  readAccess .icpendr n.toNat a (fun s => .handledRead (readValue (s.rankAt a.v.toNat n.toNat).pending a)) s

/-- WR.ISPENDR (R156): `Unhandled`. -/
def execWrIspendr (n : BitVec 5) (a : WriteArgs) (s : State) : Result := unhandledWrite .ispendr n.toNat a s

/-- WR.ICPENDR (R157): `Unhandled`. -/
def execWrIcpendr (n : BitVec 5) (a : WriteArgs) (s : State) : Result := unhandledWrite .icpendr n.toNat a s

/-- RD.CPENDSGIR (R170): the SGI source bytes of the accessor's private rank. -/
def execRdCpendsgir (n : BitVec 2) (a : ReadArgs) (s : State) : Result :=
  readAccess .cpendsgir n.toNat a
    (fun s => .handledRead (readValue (pack (s.rankAt a.v.toNat 0).pendsgi n.toNat) a)) s

/-- RD.SPENDSGIR (R171): the SGI source bytes of the accessor's private rank. -/
def execRdSpendsgir (n : BitVec 2) (a : ReadArgs) (s : State) : Result :=
  readAccess .spendsgir n.toNat a
    (fun s => .handledRead (readValue (pack (s.rankAt a.v.toNat 0).pendsgi n.toNat) a)) s

/-- WR.CPENDSGIR (R172): `Unhandled`. -/
def execWrCpendsgir (n : BitVec 2) (a : WriteArgs) (s : State) : Result := unhandledWrite .cpendsgir n.toNat a s

/-- WR.SPENDSGIR (R173): `Unhandled`. -/
def execWrSpendsgir (n : BitVec 2) (a : WriteArgs) (s : State) : Result := unhandledWrite .spendsgir n.toNat a s


end Sys2Proof.Machine
end

