-- ==== Sys2Proof/Machine/Sgi.lean ====
section
/-! DEFINITION. The SGI generate register and the SGI dispatcher (41_mmio_dispatch.md R135, R136, 45_sgi.md R230 to R237). -/

namespace Sys2Proof.Machine

/-- RD.SGIR (41_mmio_dispatch.md R135): `draw u32`, a fresh free value at each read (log 9). -/
def execRdSgir (a : ReadArgs) (s : State) : Result :=
  access .sgir 0 a.v.toNat a.sz a.lane (.handledRead 0#32)
    (fun s => .next { s.reply a.v.toNat (.handledRead (Config.freeWord s.draws)) with draws := s.draws + 1 }) s

/-- `OTHERS(s)` (R232): every vCPU id the domain is configured for, except the sender. -/
def othersMask (c : Config) (v : Nat) : Byte := orOver (fun j => 1#8 <<< j) c.nvcpu &&& ~~~(1#8 <<< v)

/-- The first atomic step of an SGI write with candidate mask `m` and line `id` by sender `v` (R230, R235, R340): the
targets are left to do. -/
def sgiFanOut (v : Nat) (m : Byte) (id : Nat) (s : State) : State :=
  s.begin { accessor := some v, cp := (s.envAt v).runningOn, inj := .none, work := .fanOut m id }

/-- The reserved filter (R234): a diagnostic, no injection, and the write is accepted. -/
def sgiBadFilter (v : Nat) (val : Word) (s : State) : State := (s.emit (.diagBadFilter val)).reply v .handled

/-- `dispatch_sgi(v, val, cp)` (R230): the filter field selects the candidate mask. -/
def dispatchSgi (v : Nat) (val : Word) (s : State) : State :=
  if val.extractLsb' 24 2 = 0#2 then sgiFanOut v (val.extractLsb' 16 8) (val.extractLsb' 0 4).toNat s
  else if val.extractLsb' 24 2 = 1#2 then sgiFanOut v (othersMask s.cfg v) (val.extractLsb' 0 4).toNat s
  else if val.extractLsb' 24 2 = 2#2 then sgiFanOut v (1#8 <<< v) (val.extractLsb' 0 4).toNat s
  else sgiBadFilter v val s

/-- WR.SGIR (R136, R237): whole, whatever the value. The decoder answers it for accesses that are no aligned word, which
are Fatal (R123); an aligned word is one of the four rows below (log 8). -/
def execWrSgir (a : WriteArgs) (s : State) : Result :=
  access .sgir 0 a.v.toNat a.sz a.lane .handled (fun s => .next (dispatchSgi a.v.toNat a.val s)) s

/-- WR.SGIR.LIST (R231): the explicit list. -/
def execWrSgirList (v list : Byte) (id : BitVec 4) (s : State) : Result :=
  access .sgir 0 v.toNat .word 0#2 .handled (fun s => .next (sgiFanOut v.toNat list id.toNat s)) s

/-- WR.SGIR.OTHERS (R232): all but the sender. -/
def execWrSgirOthers (v : Byte) (id : BitVec 4) (s : State) : Result :=
  access .sgir 0 v.toNat .word 0#2 .handled
    (fun s => .next (sgiFanOut v.toNat (othersMask s.cfg v.toNat) id.toNat s)) s

/-- WR.SGIR.SELF (R233): the sender only. -/
def execWrSgirSelf (v : Byte) (id : BitVec 4) (s : State) : Result :=
  access .sgir 0 v.toNat .word 0#2 .handled (fun s => .next (sgiFanOut v.toNat (1#8 <<< v.toNat) id.toNat s)) s

/-- WR.SGIR.RSVD (R234): the reserved filter. -/
def execWrSgirRsvd (v : Byte) (val : Word) (s : State) : Result :=
  access .sgir 0 v.toNat .word 0#2 .handled (fun s => .next (sgiBadFilter v.toNat val s)) s


end Sys2Proof.Machine
end

