-- ==== Sys2Proof/Machine/Dispatch.lean ====
section
/-! DEFINITION. Which meaning each instruction has: one arm per row of spec/opcode_table.json. -/

namespace Sys2Proof.Machine

/-- The first atomic step of an access (41_mmio_dispatch.md R120, 70_reset_and_hazards.md R340). -/
def exec (i : Instr) (s : State) : Host.Outcome State Fault Refusal :=
  match i with
  | .rdRsvd o a => Sys2Proof.Machine.execRdRsvd o a s
  | .rdRsvd7FC a => Sys2Proof.Machine.execRdRsvd7FC a s
  | .rdRsvdBFC a => Sys2Proof.Machine.execRdRsvdBFC a s
  | .rdCtlr a => Sys2Proof.Machine.execRdCtlr a s
  | .rdTyper a => Sys2Proof.Machine.execRdTyper a s
  | .rdIidr a => Sys2Proof.Machine.execRdIidr a s
  | .rdImpdef n a => Sys2Proof.Machine.execRdImpdef n a s
  | .rdImpdefD00 n a => Sys2Proof.Machine.execRdImpdefD00 n a s
  | .rdIgroupr n a => Sys2Proof.Machine.execRdIgroupr n a s
  | .rdIsenabler n a => Sys2Proof.Machine.execRdIsenabler n a s
  | .rdIcenabler n a => Sys2Proof.Machine.execRdIcenabler n a s
  | .rdIspendr n a => Sys2Proof.Machine.execRdIspendr n a s
  | .rdIcpendr n a => Sys2Proof.Machine.execRdIcpendr n a s
  | .rdIsactiver n a => Sys2Proof.Machine.execRdIsactiver n a s
  | .rdIcactiver n a => Sys2Proof.Machine.execRdIcactiver n a s
  | .rdIpriorityr n a => Sys2Proof.Machine.execRdIpriorityr n a s
  | .rdItargetsr n a => Sys2Proof.Machine.execRdItargetsr n a s
  | .rdIcfgr n a => Sys2Proof.Machine.execRdIcfgr n a s
  | .rdNsacr n a => Sys2Proof.Machine.execRdNsacr n a s
  | .rdSgir a => Sys2Proof.Machine.execRdSgir a s
  | .rdCpendsgir n a => Sys2Proof.Machine.execRdCpendsgir n a s
  | .rdSpendsgir n a => Sys2Proof.Machine.execRdSpendsgir n a s
  | .rdPid n a => Sys2Proof.Machine.execRdPid n a s
  | .rdPidFE0 n a => Sys2Proof.Machine.execRdPidFE0 n a s
  | .wrRsvd o a => Sys2Proof.Machine.execWrRsvd o a s
  | .wrRsvd7FC a => Sys2Proof.Machine.execWrRsvd7FC a s
  | .wrRsvdBFC a => Sys2Proof.Machine.execWrRsvdBFC a s
  | .wrCtlr a => Sys2Proof.Machine.execWrCtlr a s
  | .wrTyper a => Sys2Proof.Machine.execWrTyper a s
  | .wrIidr a => Sys2Proof.Machine.execWrIidr a s
  | .wrImpdef n a => Sys2Proof.Machine.execWrImpdef n a s
  | .wrImpdefD00 n a => Sys2Proof.Machine.execWrImpdefD00 n a s
  | .wrIgroupr n a => Sys2Proof.Machine.execWrIgroupr n a s
  | .wrIsenabler n a => Sys2Proof.Machine.execWrIsenabler n a s
  | .wrIcenabler n a => Sys2Proof.Machine.execWrIcenabler n a s
  | .wrIspendr n a => Sys2Proof.Machine.execWrIspendr n a s
  | .wrIcpendr n a => Sys2Proof.Machine.execWrIcpendr n a s
  | .wrIsactiver n a => Sys2Proof.Machine.execWrIsactiver n a s
  | .wrIcactiver n a => Sys2Proof.Machine.execWrIcactiver n a s
  | .wrIpriorityr n a => Sys2Proof.Machine.execWrIpriorityr n a s
  | .wrItargetsr n a => Sys2Proof.Machine.execWrItargetsr n a s
  | .wrItargetsrRo n a => Sys2Proof.Machine.execWrItargetsrRo n a s
  | .wrIcfgr n a => Sys2Proof.Machine.execWrIcfgr n a s
  | .wrIcfgrRo n a => Sys2Proof.Machine.execWrIcfgrRo n a s
  | .wrNsacr n a => Sys2Proof.Machine.execWrNsacr n a s
  | .wrSgir a => Sys2Proof.Machine.execWrSgir a s
  | .wrCpendsgir n a => Sys2Proof.Machine.execWrCpendsgir n a s
  | .wrSpendsgir n a => Sys2Proof.Machine.execWrSpendsgir n a s
  | .wrPid n a => Sys2Proof.Machine.execWrPid n a s
  | .wrPidFE0 n a => Sys2Proof.Machine.execWrPidFE0 n a s
  | .wrSgirList v list id => Sys2Proof.Machine.execWrSgirList v list id s
  | .wrSgirOthers v id => Sys2Proof.Machine.execWrSgirOthers v id s
  | .wrSgirSelf v id => Sys2Proof.Machine.execWrSgirSelf v id s
  | .wrSgirRsvd v val => Sys2Proof.Machine.execWrSgirRsvd v val s

end Sys2Proof.Machine
end

