-- ==== Sys2Proof/Machine/Inject.lean ====
section
/-! DEFINITION. The Injection Engine (44_injection.md): steps 1 to 4 are one atomic step, step 5 is a later one (R210,
R216). -/

namespace Sys2Proof.Machine

/-- Step 3 (R213): snapshot the priority, mark the line queued and neither visible nor active, and raise it if it is
enabled. -/
def injectRaise (v L : Nat) (s : State) : State :=
  (s.setDesc v L ((s.desc v L).snapshot (s.priorityOf v L))).emitAll
    (if (s.desc v L).enabled then [.piRaise v L (s.priorityOf v L)] else [])

/-- Step 4 (R214): insert the line into `v`'s list in priority order, and link its descriptor to `v`. -/
def injectInsert (v L : Nat) (s : State) : State :=
  (s.setInflight v (insertByPrio (fun x => (s.desc v x).prio) (s.inflight v) L (s.desc v L).prio)).setDesc v L
    ((s.desc v L).linkTo v)

/-- Steps 1 to 4 of `inject(v, L, cp)`, one atomic step (R211 to R214, R216), and whether step 5 is to follow: a linked
line coalesces, an offline vCPU drops the injection, and else the line is raised and inserted. -/
def injectLink (v L : Nat) (s : State) : State × Bool :=
  match (s.desc v L).linked with
  | some u => ((s.setDesc v L (s.desc v L).retrigger).emit (.piReraise u L), false)
  | none => if (s.envAt v).online then (injectInsert v L (injectRaise v L s), true) else (s, false)

/-- The events of step 5 (R215): notify a vCPU that runs on another processor than the caller's, wake a blocked one. -/
def notifyEvents (v : Nat) (cp : Option Nat) (s : State) : List Event :=
  (match (s.envAt v).runningOn with
    | some p => if cp = some p then [] else [.notify p]
    | none => []) ++
  (if (s.envAt v).blocked then [.wake v] else [])

/-- Step 5 (R215): its own atomic step, which reads the environment when it runs (R344). -/
def injectNotify (v : Nat) (cp : Option Nat) (s : State) : State := s.emitAll (notifyEvents v cp s)

end Sys2Proof.Machine
end

