-- ==== Sys2Proof/Machine/Ports.lean ====
section
/-! DEFINITION. The inbound ports other than MMIO, the lifecycle and the environment moves (46_ports_lifecycle.md R250 to R258). -/

namespace Sys2Proof.Machine

/-- The preconditions of an operation on line `L` of vCPU `v` (R250 to R253). -/
def State.lineRefusal (s : State) (v L : Nat) : Option PortRefusal :=
  match s.vcpuRefusal v with
  | some c => some c
  | none => if L < s.cfg.nlines then none else some .noSuchLine

/-- `Inject(v, L, cp)` (R250): steps 1 to 4 are its first atomic step; step 5 is left to do when step 4 ran. -/
def portInject (v L : Nat) (cp : Option Nat) (s : State) : Result :=
  match s.lineRefusal v L with
  | some c => .refused (.port c)
  | none =>
    .next ((injectLink v L s).1.begin
      { accessor := none
        cp := cp
        inj := if (injectLink v L s).2 then .notify v else .none
        work := .nothing })

/-- A collaborator call on line `L` of vCPU `u` (R251 to R253): refused unless the line is in `u`'s list. -/
def collaborator (u L : Nat) (perform : State → State) (s : State) : Result :=
  match s.lineRefusal u L with
  | some c => .refused (.port c)
  | none => if (s.desc u L).linked = some u then .next (perform s) else .refused (.port .notLinked)

/-- `CI_Visible(u, L, b)` (R251). -/
def portVisible (u L : Nat) (b : Bool) (s : State) : Result :=
  collaborator u L (fun s => s.setDesc u L ((s.desc u L).setVisible b)) s

/-- `CI_Active(u, L, b)` (R252). -/
def portActive (u L : Nat) (b : Bool) (s : State) : Result :=
  collaborator u L (fun s => s.setDesc u L ((s.desc u L).setActive b)) s

/-- `CI_Retire(u, L)` (R253): the line leaves `u`'s list. -/
def portRetire (u L : Nat) (s : State) : Result :=
  collaborator u L
    (fun s => (s.setInflight u ((s.inflight u).erase L)).setDesc u L ((s.desc u L).retire)) s

/-- `CreateDomain` (R254): the domain's state is created; the input stream goes on. Only where there is no domain yet
(log 12), with parameters in the ranges of R7 (log 18). -/
def portCreateDomain (c : Config) (s : State) : Result :=
  if s.phase ≠ .absent then .refused (.port .domainExists)
  else if c.valid then .next { State.created c with inputs := s.inputs, refusals := s.refusals }
  else .refused (.port .badParameters)

/-- `CreateVcpu(v)` (R255). -/
def portCreateVcpu (v : Nat) (s : State) : Result :=
  if s.phase ≠ .live then .refused (.port .noDomain)
  else if s.terminated then .refused (.port .terminated)
  else if ¬ (v < s.cfg.nvcpu) then .refused (.port .noSuchVcpu)
  else if (s.vcpuAt v).created then .refused (.port .alreadyCreated)
  else .next (s.setVcpu v (VcpuState.fresh v))

/-- The shared descriptors after the teardown of a vCPU whose list is `l` (R256): each shared line of the list is
unlinked. -/
def releaseShared (spi : List Descriptor) (l : List Nat) : List Descriptor :=
  spi.mapIdx (fun i d => if l.contains (i + 32) then d.release else d)

/-- `DestroyVcpu(v)` (R256, 70_reset_and_hazards.md R336): the shared lines in its list are unlinked, and its own state is
zero again. It requires that no operation is in progress (R336, D38), so none that names `v` (R256; log 16). -/
def portDestroyVcpu (v : Nat) (s : State) : Result :=
  match s.vcpuRefusal v with
  | some c => .refused (.port c)
  | none =>
    if s.tasks = [] then .next ({ s with spi := releaseShared s.spi (s.inflight v) }.setVcpu v VcpuState.absent)
    else .refused (.port .inProgress)

/-- `DestroyDomain` (R257): accepted whether or not the domain is terminated; every later operation is refused
(log 12). -/
def portDestroyDomain (s : State) : Result :=
  if s.phase ≠ .live then .refused (.port .noDomain)
  else if s.tasks = [] then .next { s with phase := .destroyed }
  else .refused (.port .inProgress)

/-- A port operation (30_encoding.md R91). -/
def portStep (op : PortOp) (s : State) : Result :=
  match op with
  | .inject v L cp => portInject v L cp s
  | .ciVisible u L b => portVisible u L b s
  | .ciActive u L b => portActive u L b s
  | .ciRetire u L => portRetire u L s
  | .createDomain c => portCreateDomain c s
  | .createVcpu v => portCreateVcpu v s
  | .destroyVcpu v => portDestroyVcpu v s
  | .destroyDomain => portDestroyDomain s

/-- The vCPU an environment move is about (R258). -/
def EnvMove.vcpu : EnvMove → Nat
  | .online v _ => v
  | .running v _ => v
  | .blocked v _ => v
  | .upcall v _ => v

/-- The environment inputs of that vCPU after the move (R258). -/
def EnvMove.apply : EnvMove → VcpuEnv → VcpuEnv
  | .online _ b, e => { e with online := b }
  | .running _ p, e => { e with runningOn := p }
  | .blocked _ b, e => { e with blocked := b }
  | .upcall _ b, e => { e with upcall := b }

/-- Does the move stay within `PROC` (R258)? -/
def EnvMove.allowed (c : Config) : EnvMove → Bool
  | .running _ (some p) => c.proc.contains p
  | _ => true

/-- An environment move (R258): any vCPU id of the domain, any value, any processor of `PROC` (log 13). -/
def envStep (m : EnvMove) (s : State) : Result :=
  if s.phase ≠ .live then .refused (.port .noDomain)
  else if m.vcpu < s.cfg.nvcpu ∧ m.allowed s.cfg then .next (s.setEnv m.vcpu (m.apply (s.envAt m.vcpu)))
  else .refused (.port .badEnvironment)


end Sys2Proof.Machine
end

