-- ==== Sys2Proof/Machine/Transitions.lean ====
section
/-! DEFINITION. The per-line steps of the enable and disable transitions (43_enable_disable.md). -/

namespace Sys2Proof.Machine

/-- The event of the backing physical interrupt of line `L` as `v` names it, if it has one (R191, R195). -/
def physEvents (c : Config) (v L : Nat) (e : Nat → Event) : List Event :=
  match c.backingOf (descKey v L) with
  | some p => [e p]
  | none => []

/-- Does enabling line `L` force an injection (R192): it is the event-channel line, the accessor's upcall is pending,
and the line is not linked? -/
def forcesInjection (v L : Nat) (s : State) : Bool :=
  s.cfg.evtchnLine == some L && (s.envAt v).upcall && (s.desc v L).linked == none

/-- The re-raise of a line that is linked but not visible (R193): it names the vCPU whose list holds the line. -/
def reraiseEvents (d : Descriptor) (L : Nat) : List Event :=
  match d.linked with
  | some u => if d.visible then [] else [.piReraise u L]
  | none => []

/-- `EnableStep(v, L, cp)` (R191 to R193), one atomic step, and the injection it leaves to run next. -/
def enableStep (v L : Nat) (s : State) : State × Injection :=
  let s' := (s.setDesc v L (s.desc v L).enable).emitAll (physEvents s.cfg v L .piEnablePhys)
  if forcesInjection v L s then (s', .link v L) else (s'.emitAll (reraiseEvents (s.desc v L) L), .none)

/-- `DisableStep(v, L)` (R195), one atomic step: the line leaves whatever inflight list holds it. -/
def disableStep (v L : Nat) (s : State) : State :=
  let d := s.desc v L
  let t := d.linked.getD v
  let s1 := match d.linked with
    | some u => s.setInflight u ((s.inflight u).erase L)
    | none => s
  (s1.setDesc v L d.disable).emitAll (.piRemoveFromQueues t L :: physEvents s.cfg v L .piDisablePhys)

end Sys2Proof.Machine
end

