-- ==== Sys2Proof/Machine/Tasks.lean ====
section
/-! DEFINITION. The operations in progress (10_state.md R41): the next atomic step of each (70_reset_and_hazards.md R340). -/

namespace Sys2Proof.Machine

/-- The target test of one SGI target (45_sgi.md R235): is the id out of range, not created or offline? -/
def badTarget (s : State) (j : Nat) : Bool :=
  !(decide (j < s.cfg.nvcpu) && (s.vcpuAt j).created && (s.envAt j).online)

/-- The next atomic step of the work an operation has left, and what is left after it (10_state.md R41): the lowest
enabled bit (43_enable_disable.md R190), the lowest disabled bit (R194), or the test of the lowest target (R235), each
of which may leave an injection to run before the work goes on. -/
def workStep (w : Work) (s : State) : State × Injection × Work :=
  match w with
  | .nothing => (s, .none, .nothing)
  | .enable v m n =>
    match lowestBit m with
    | some i => ((enableStep v (32 * n + i) s).1, (enableStep v (32 * n + i) s).2, .enable v (clearBit m i) n)
    | none => (s, .none, .nothing)
  | .disable v m n =>
    match lowestBit m with
    | some i => (disableStep v (32 * n + i) s, .none, .disable v (clearBit m i) n)
    | none => (s, .none, .nothing)
  | .fanOut m id =>
    match lowestBit m with
    | some j =>
      if badTarget s j then (s.emit (.diagBadTarget j), .none, .fanOut (clearBit m j) id)
      else (s, .link j id, .fanOut (clearBit m j) id)
    | none => (s, .none, .nothing)

/-- The next atomic step of an operation in progress, and what it has left after it: an injection that has begun is
finished, step 5 included, before the operation goes on (46_ports_lifecycle.md R261, 70_reset_and_hazards.md R345). -/
def taskStep (t : Task) (s : State) : State × Task :=
  match t.inj with
  | .link v L =>
    ((injectLink v L s).1, { t with inj := if (injectLink v L s).2 then .notify v else .none })
  | .notify v => (injectNotify v t.cp s, { t with inj := .none })
  | .none => ((workStep t.work s).1, { t with inj := (workStep t.work s).2.1, work := (workStep t.work s).2.2 })

/-- Put back what the k-th operation has left, or complete it (R41, log 15). -/
def State.putTask (s : State) (k : Nat) (t : Task) : State :=
  if t.isDone then { s with tasks := s.tasks.eraseIdx k }.complete t else { s with tasks := s.tasks.set k t }

/-- The k-th operation in progress makes its next atomic step (70_reset_and_hazards.md R340). -/
def advance (k : Nat) (s : State) : Result :=
  match s.tasks[k]? with
  | some t => .next ((taskStep t s).1.putTask k (taskStep t s).2)
  | none => .fault (.noSuchOperation k)


end Sys2Proof.Machine
end

