-- ==== Sys2Proof/Machine/Schedule.lean ====
section
/-! DEFINITION. How the input stream is served: which agent moves next (70_reset_and_hazards.md R340, log 3 to 5). -/

namespace Sys2Proof.Machine

/-- The state with its next input taken off the stream. -/
def State.popInput (s : State) : State := { s with inputs := s.inputs.tail }

/-- What becomes of an answer: a refused port call has no step, so it is taken off the stream, noted, and changes
nothing else (46_ports_lifecycle.md, head; log 5). Any other answer stands. `s` is the state without the call. -/
def settle (s : State) (r : Result) : Result :=
  match r with
  | .refused (.port c) => .next { s with refusals := s.refusals ++ [c] }
  | r => r

/-- The access of vCPU `v` that is in progress, if there is one (R261). -/
def State.busyTask (s : State) (v : Nat) : Option Nat := s.tasks.findIdx? (fun t => t.isAccessOf v)

/-- No input is pending: the oldest operation in progress makes its next step; with none in progress the block is idle
and stays as it is (log 3, 4). -/
def idleStep (s : State) : Result := if s.tasks = [] then .next s else advance 0 s

/-- `await`: the oldest operation in progress makes its next step; with none left the stream goes on (log 4). -/
def awaitStep (s : State) : Result := if s.tasks = [] then .next s.popInput else advance 0 s


end Sys2Proof.Machine
end

