-- ==== Sys2Proof/Machine/Step.lean ====
section
/-! DEFINITION. One step of the machine, and how the host places an instruction where the next step takes it from. -/

namespace Sys2Proof.Machine

/-- One step: the next item of the input stream is served (log 3). An access is decoded and makes its first atomic step,
unless its vCPU has an access in progress: then it waits, and that access makes its next atomic step (R261, log 4). -/
def step (s : State) : Host.Outcome State Fault Refusal :=
  match s.inputs with
  | [] => idleStep s
  | .access bytes :: _ =>
    match decode bytes with
    | .error e => .refused (.undecodable e)
    | .ok i =>
      match s.busyTask i.accessor.toNat with
      | some k => advance k s
      | none => settle s.popInput (exec i s.popInput)
  | .port op :: _ => settle s.popInput (portStep op s.popInput)
  | .env m :: _ => settle s.popInput (envStep m s.popInput)
  | .resume k :: _ => advance k s.popInput
  | .await :: _ => awaitStep s

/-- The state with the instruction of the table word `w` as the next input. The accessor is vCPU 0, which is created if
it does not exist: no access can be presented before (R335, log 2, 8). -/
def State.withFetchWord (s : State) (nbits w : Nat) : State :=
  let s' := if (s.vcpuAt 0).created then s else s.setVcpu 0 (VcpuState.fresh 0)
  { s' with inputs := .access (tableWordBytes nbits w) :: s'.inputs }

end Sys2Proof.Machine
end

