-- ==== Sys2Proof/Machine/Pseudo.lean ====
section
/-! DEFINITION. The program syntax of MMIO operations and the pseudo-operations, each one access (30_encoding.md R87, R88). -/

namespace Sys2Proof.Machine

/-- `WR.W v, off, val` (R87). -/
def wordWrite (v : Byte) (off : BitVec 12) (val : Word) : Access :=
  { v := v, W := true, off := off, sz := .word, sg := false, val := val }

/-- `WR.B v, off, val` (R87). -/
def byteWrite (v : Byte) (off : BitVec 12) (val : Word) : Access :=
  { v := v, W := true, off := off, sz := .byte, sg := false, val := val }

/-- `RD.W v, off` (R87). -/
def wordRead (v : Byte) (off : BitVec 12) : Access :=
  { v := v, W := false, off := off, sz := .word, sg := false, val := 0#32 }

/-- `RD.B v, off` and, with `sg`, `RD.SB v, off` (R87). -/
def byteRead (v : Byte) (off : BitVec 12) (sg : Bool) : Access :=
  { v := v, W := false, off := off, sz := .byte, sg := sg, val := 0#32 }

/-- `SGI.LIST v, m, s`: `WR.W v, 0xF00, (m << 16) + s`. -/
def pseudoSgiList (v m : Byte) (i : BitVec 4) : Access := wordWrite v 0xF00#12 ((m.setWidth 32 <<< 16) + i.setWidth 32)

/-- `SGI.OTHERS v, s`: `WR.W v, 0xF00, 0x01000000 + s`. -/
def pseudoSgiOthers (v : Byte) (i : BitVec 4) : Access := wordWrite v 0xF00#12 (0x01000000#32 + i.setWidth 32)

/-- `SGI.SELF v, s`: `WR.W v, 0xF00, 0x02000000 + s`. -/
def pseudoSgiSelf (v : Byte) (i : BitVec 4) : Access := wordWrite v 0xF00#12 (0x02000000#32 + i.setWidth 32)

/-- `ENABLE v, L`: `WR.W v, 0x100 + 4*(L div 32), 1 << (L mod 32)`. -/
def pseudoEnable (v : Byte) (L : Nat) : Access :=
  wordWrite v (BitVec.ofNat 12 (0x100 + 4 * (L / 32))) (1#32 <<< (L % 32))

/-- `DISABLE v, L`: `WR.W v, 0x180 + 4*(L div 32), 1 << (L mod 32)`. -/
def pseudoDisable (v : Byte) (L : Nat) : Access :=
  wordWrite v (BitVec.ofNat 12 (0x180 + 4 * (L / 32))) (1#32 <<< (L % 32))

/-- `SETPRIO v, L, p`: `WR.B v, 0x400 + L, p`. -/
def pseudoSetPrio (v : Byte) (L : Nat) (p : Byte) : Access :=
  byteWrite v (BitVec.ofNat 12 (0x400 + L)) (p.setWidth 32)

/-- `SETTARGET v, L, m`: `WR.B v, 0x800 + L, m`. -/
def pseudoSetTarget (v : Byte) (L : Nat) (m : Byte) : Access :=
  byteWrite v (BitVec.ofNat 12 (0x800 + L)) (m.setWidth 32)

/-- `SETCFG v, n, x`: `WR.W v, 0xC00 + 4*n, x`. -/
def pseudoSetCfg (v : Byte) (n : Nat) (x : Word) : Access := wordWrite v (BitVec.ofNat 12 (0xC00 + 4 * n)) x

/-- The input that presents an access. -/
def present (x : Access) : Input := .access x.toBytes


end Sys2Proof.Machine
end

