-- ==== Sys2Proof/Safety.lean ====
section
/-! DEFINITION. What claims about the machine speak of: the conditions under which an access has a step, the fields of an
instruction that decide its outcome class (60_exceptions.md R305), the invariants of 10_state.md, and the bound of an
operation's own steps (70_reset_and_hazards.md R346). -/

namespace Sys2Proof

/-- The register group of an instruction (30_encoding.md R72). -/
def Instr.group : Instr → Machine.Group
  | .rdRsvd _ _ => .rsvd
  | .rdRsvd7FC _ => .rsvd
  | .rdRsvdBFC _ => .rsvd
  | .rdCtlr _ => .ctlr
  | .rdTyper _ => .typer
  | .rdIidr _ => .iidr
  | .rdImpdef _ _ => .impdef
  | .rdImpdefD00 _ _ => .impdef
  | .rdIgroupr _ _ => .igroupr
  | .rdIsenabler _ _ => .isenabler
  | .rdIcenabler _ _ => .icenabler
  | .rdIspendr _ _ => .ispendr
  | .rdIcpendr _ _ => .icpendr
  | .rdIsactiver _ _ => .isactiver
  | .rdIcactiver _ _ => .icactiver
  | .rdIpriorityr _ _ => .ipriorityr
  | .rdItargetsr _ _ => .itargetsr
  | .rdIcfgr _ _ => .icfgr
  | .rdNsacr _ _ => .nsacr
  | .rdSgir _ => .sgir
  | .rdCpendsgir _ _ => .cpendsgir
  | .rdSpendsgir _ _ => .spendsgir
  | .rdPid _ _ => .pid
  | .rdPidFE0 _ _ => .pid
  | .wrRsvd _ _ => .rsvd
  | .wrRsvd7FC _ => .rsvd
  | .wrRsvdBFC _ => .rsvd
  | .wrCtlr _ => .ctlr
  | .wrTyper _ => .typer
  | .wrIidr _ => .iidr
  | .wrImpdef _ _ => .impdef
  | .wrImpdefD00 _ _ => .impdef
  | .wrIgroupr _ _ => .igroupr
  | .wrIsenabler _ _ => .isenabler
  | .wrIcenabler _ _ => .icenabler
  | .wrIspendr _ _ => .ispendr
  | .wrIcpendr _ _ => .icpendr
  | .wrIsactiver _ _ => .isactiver
  | .wrIcactiver _ _ => .icactiver
  | .wrIpriorityr _ _ => .ipriorityr
  | .wrItargetsr _ _ => .itargetsr
  | .wrItargetsrRo _ _ => .itargetsr
  | .wrIcfgr _ _ => .icfgr
  | .wrIcfgrRo _ _ => .icfgr
  | .wrNsacr _ _ => .nsacr
  | .wrSgir _ => .sgir
  | .wrCpendsgir _ _ => .cpendsgir
  | .wrSpendsgir _ _ => .spendsgir
  | .wrPid _ _ => .pid
  | .wrPidFE0 _ _ => .pid
  | .wrSgirList _ _ _ => .sgir
  | .wrSgirOthers _ _ => .sgir
  | .wrSgirSelf _ _ => .sgir
  | .wrSgirRsvd _ _ => .sgir

/-- The register word index `n` of an instruction of a per-line group, as R121 counts it; 0 for any other group. -/
def Instr.wordIndex : Instr → Nat
  | .rdRsvd _ _ => 0
  | .rdRsvd7FC _ => 0
  | .rdRsvdBFC _ => 0
  | .rdCtlr _ => 0
  | .rdTyper _ => 0
  | .rdIidr _ => 0
  | .rdImpdef _ _ => 0
  | .rdImpdefD00 _ _ => 0
  | .rdIgroupr n _ => n.toNat
  | .rdIsenabler n _ => n.toNat
  | .rdIcenabler n _ => n.toNat
  | .rdIspendr n _ => n.toNat
  | .rdIcpendr n _ => n.toNat
  | .rdIsactiver n _ => n.toNat
  | .rdIcactiver n _ => n.toNat
  | .rdIpriorityr n _ => n.toNat
  | .rdItargetsr n _ => n.toNat
  | .rdIcfgr n _ => n.toNat
  | .rdNsacr n _ => n.toNat
  | .rdSgir _ => 0
  | .rdCpendsgir _ _ => 0
  | .rdSpendsgir _ _ => 0
  | .rdPid _ _ => 0
  | .rdPidFE0 _ _ => 0
  | .wrRsvd _ _ => 0
  | .wrRsvd7FC _ => 0
  | .wrRsvdBFC _ => 0
  | .wrCtlr _ => 0
  | .wrTyper _ => 0
  | .wrIidr _ => 0
  | .wrImpdef _ _ => 0
  | .wrImpdefD00 _ _ => 0
  | .wrIgroupr n _ => n.toNat
  | .wrIsenabler n _ => n.toNat
  | .wrIcenabler n _ => n.toNat
  | .wrIspendr n _ => n.toNat
  | .wrIcpendr n _ => n.toNat
  | .wrIsactiver n _ => n.toNat
  | .wrIcactiver n _ => n.toNat
  | .wrIpriorityr n _ => n.toNat
  | .wrItargetsr n _ => n.toNat
  | .wrItargetsrRo n _ => n.toNat
  | .wrIcfgr n _ => n.toNat
  | .wrIcfgrRo n _ => n.toNat
  | .wrNsacr n _ => n.toNat
  | .wrSgir _ => 0
  | .wrCpendsgir _ _ => 0
  | .wrSpendsgir _ _ => 0
  | .wrPid _ _ => 0
  | .wrPidFE0 _ _ => 0
  | .wrSgirList _ _ _ => 0
  | .wrSgirOthers _ _ => 0
  | .wrSgirSelf _ _ => 0
  | .wrSgirRsvd _ _ => 0

/-- The size of an access; the SGIR value rows are words (R79). -/
def Instr.size : Instr → Size
  | .rdRsvd _ a => a.sz
  | .rdRsvd7FC a => a.sz
  | .rdRsvdBFC a => a.sz
  | .rdCtlr a => a.sz
  | .rdTyper a => a.sz
  | .rdIidr a => a.sz
  | .rdImpdef _ a => a.sz
  | .rdImpdefD00 _ a => a.sz
  | .rdIgroupr _ a => a.sz
  | .rdIsenabler _ a => a.sz
  | .rdIcenabler _ a => a.sz
  | .rdIspendr _ a => a.sz
  | .rdIcpendr _ a => a.sz
  | .rdIsactiver _ a => a.sz
  | .rdIcactiver _ a => a.sz
  | .rdIpriorityr _ a => a.sz
  | .rdItargetsr _ a => a.sz
  | .rdIcfgr _ a => a.sz
  | .rdNsacr _ a => a.sz
  | .rdSgir a => a.sz
  | .rdCpendsgir _ a => a.sz
  | .rdSpendsgir _ a => a.sz
  | .rdPid _ a => a.sz
  | .rdPidFE0 _ a => a.sz
  | .wrRsvd _ a => a.sz
  | .wrRsvd7FC a => a.sz
  | .wrRsvdBFC a => a.sz
  | .wrCtlr a => a.sz
  | .wrTyper a => a.sz
  | .wrIidr a => a.sz
  | .wrImpdef _ a => a.sz
  | .wrImpdefD00 _ a => a.sz
  | .wrIgroupr _ a => a.sz
  | .wrIsenabler _ a => a.sz
  | .wrIcenabler _ a => a.sz
  | .wrIspendr _ a => a.sz
  | .wrIcpendr _ a => a.sz
  | .wrIsactiver _ a => a.sz
  | .wrIcactiver _ a => a.sz
  | .wrIpriorityr _ a => a.sz
  | .wrItargetsr _ a => a.sz
  | .wrItargetsrRo _ a => a.sz
  | .wrIcfgr _ a => a.sz
  | .wrIcfgrRo _ a => a.sz
  | .wrNsacr _ a => a.sz
  | .wrSgir a => a.sz
  | .wrCpendsgir _ a => a.sz
  | .wrSpendsgir _ a => a.sz
  | .wrPid _ a => a.sz
  | .wrPidFE0 _ a => a.sz
  | .wrSgirList _ _ _ => .word
  | .wrSgirOthers _ _ => .word
  | .wrSgirSelf _ _ => .word
  | .wrSgirRsvd _ _ => .word

/-- `off[1:0]` of an access; the SGIR value rows are aligned (R79). -/
def Instr.byteLane : Instr → BitVec 2
  | .rdRsvd _ a => a.lane
  | .rdRsvd7FC a => a.lane
  | .rdRsvdBFC a => a.lane
  | .rdCtlr a => a.lane
  | .rdTyper a => a.lane
  | .rdIidr a => a.lane
  | .rdImpdef _ a => a.lane
  | .rdImpdefD00 _ a => a.lane
  | .rdIgroupr _ a => a.lane
  | .rdIsenabler _ a => a.lane
  | .rdIcenabler _ a => a.lane
  | .rdIspendr _ a => a.lane
  | .rdIcpendr _ a => a.lane
  | .rdIsactiver _ a => a.lane
  | .rdIcactiver _ a => a.lane
  | .rdIpriorityr _ a => a.lane
  | .rdItargetsr _ a => a.lane
  | .rdIcfgr _ a => a.lane
  | .rdNsacr _ a => a.lane
  | .rdSgir a => a.lane
  | .rdCpendsgir _ a => a.lane
  | .rdSpendsgir _ a => a.lane
  | .rdPid _ a => a.lane
  | .rdPidFE0 _ a => a.lane
  | .wrRsvd _ a => a.lane
  | .wrRsvd7FC a => a.lane
  | .wrRsvdBFC a => a.lane
  | .wrCtlr a => a.lane
  | .wrTyper a => a.lane
  | .wrIidr a => a.lane
  | .wrImpdef _ a => a.lane
  | .wrImpdefD00 _ a => a.lane
  | .wrIgroupr _ a => a.lane
  | .wrIsenabler _ a => a.lane
  | .wrIcenabler _ a => a.lane
  | .wrIspendr _ a => a.lane
  | .wrIcpendr _ a => a.lane
  | .wrIsactiver _ a => a.lane
  | .wrIcactiver _ a => a.lane
  | .wrIpriorityr _ a => a.lane
  | .wrItargetsr _ a => a.lane
  | .wrItargetsrRo _ a => a.lane
  | .wrIcfgr _ a => a.lane
  | .wrIcfgrRo _ a => a.lane
  | .wrNsacr _ a => a.lane
  | .wrSgir a => a.lane
  | .wrCpendsgir _ a => a.lane
  | .wrSpendsgir _ a => a.lane
  | .wrPid _ a => a.lane
  | .wrPidFE0 _ a => a.lane
  | .wrSgirList _ _ _ => 0#2
  | .wrSgirOthers _ _ => 0#2
  | .wrSgirSelf _ _ => 0#2
  | .wrSgirRsvd _ _ => 0#2

/-- Is the access a read (R70)? -/
def Instr.isRead : Instr → Bool
  | .rdRsvd _ _ => true
  | .rdRsvd7FC _ => true
  | .rdRsvdBFC _ => true
  | .rdCtlr _ => true
  | .rdTyper _ => true
  | .rdIidr _ => true
  | .rdImpdef _ _ => true
  | .rdImpdefD00 _ _ => true
  | .rdIgroupr _ _ => true
  | .rdIsenabler _ _ => true
  | .rdIcenabler _ _ => true
  | .rdIspendr _ _ => true
  | .rdIcpendr _ _ => true
  | .rdIsactiver _ _ => true
  | .rdIcactiver _ _ => true
  | .rdIpriorityr _ _ => true
  | .rdItargetsr _ _ => true
  | .rdIcfgr _ _ => true
  | .rdNsacr _ _ => true
  | .rdSgir _ => true
  | .rdCpendsgir _ _ => true
  | .rdSpendsgir _ _ => true
  | .rdPid _ _ => true
  | .rdPidFE0 _ _ => true
  | .wrRsvd _ _ => false
  | .wrRsvd7FC _ => false
  | .wrRsvdBFC _ => false
  | .wrCtlr _ => false
  | .wrTyper _ => false
  | .wrIidr _ => false
  | .wrImpdef _ _ => false
  | .wrImpdefD00 _ _ => false
  | .wrIgroupr _ _ => false
  | .wrIsenabler _ _ => false
  | .wrIcenabler _ _ => false
  | .wrIspendr _ _ => false
  | .wrIcpendr _ _ => false
  | .wrIsactiver _ _ => false
  | .wrIcactiver _ _ => false
  | .wrIpriorityr _ _ => false
  | .wrItargetsr _ _ => false
  | .wrItargetsrRo _ _ => false
  | .wrIcfgr _ _ => false
  | .wrIcfgrRo _ _ => false
  | .wrNsacr _ _ => false
  | .wrSgir _ => false
  | .wrCpendsgir _ _ => false
  | .wrSpendsgir _ _ => false
  | .wrPid _ _ => false
  | .wrPidFE0 _ _ => false
  | .wrSgirList _ _ _ => false
  | .wrSgirOthers _ _ => false
  | .wrSgirSelf _ _ => false
  | .wrSgirRsvd _ _ => false

/-- An aligned word access (20_memory.md R56). -/
abbrev ReadArgs.alignedWord (a : ReadArgs) : Prop := a.sz = .word ∧ a.lane = 0#2

/-- An aligned word access (20_memory.md R56). -/
abbrev WriteArgs.alignedWord (a : WriteArgs) : Prop := a.sz = .word ∧ a.lane = 0#2

/-- A byte access, or an aligned word access: the widths of a byte-or-word group (R123). -/
abbrev ReadArgs.byteOrWord (a : ReadArgs) : Prop := a.sz = .byte ∨ (a.sz = .word ∧ a.lane = 0#2)

/-- A byte access, or an aligned word access: the widths of a byte-or-word group (R123). -/
abbrev WriteArgs.byteOrWord (a : WriteArgs) : Prop := a.sz = .byte ∨ (a.sz = .word ∧ a.lane = 0#2)

namespace Machine

/-- The conditions under which an access of vCPU `v` has a step (41_mmio_dispatch.md R120, 46_ports_lifecycle.md R261):
a live domain that is not terminated, a created vCPU, and no access of it in progress. -/
abbrev State.Ready (s : State) (v : Nat) : Prop :=
  s.phase = .live ∧ s.terminated = false ∧ v < s.cfg.nvcpu ∧ (s.vcpuAt v).created = true ∧
  ∀ t ∈ s.tasks, t.accessor ≠ some v

/-- The conditions of a call on line `L` of vCPU `v` (46_ports_lifecycle.md R250 to R253). -/
abbrev State.LineReady (s : State) (v L : Nat) : Prop :=
  s.phase = .live ∧ s.terminated = false ∧ v < s.cfg.nvcpu ∧ (s.vcpuAt v).created = true ∧ L < s.cfg.nlines

/-- The rank of word `n` of the group is present (40_rank_store.md R100, R101): its index is at most `NSR`. A group that
is not per-line has no absent case. -/
abbrev State.Present (s : State) (g : Group) (n : Nat) : Prop := ∀ b ∈ g.bitsPerLine, n / b ≤ s.cfg.nsr

/-- The width is one the group allows (41_mmio_dispatch.md R123): an aligned word, or a byte of a group that allows
bytes. -/
abbrev Group.WidthAllowed (g : Group) (sz : Size) (l : BitVec 2) : Prop :=
  (sz = .word ∧ l = 0#2) ∨
  (sz = .byte ∧ g ∈ [Group.ispendr, .icpendr, .ipriorityr, .itargetsr, .cpendsgir, .spendsgir])

/-! ### Frames -/

/-- `t` is `s` but for rank `r` as vCPU `v` names it (10_state.md R22): every other rank, and every other field of the
state and of each vCPU, is the same. -/
def State.OnlyRank (s t : State) (v r : Nat) : Prop :=
  t = { s with vcpu := t.vcpu, shared := t.shared } ∧
  (∀ u, t.vcpuAt u = { s.vcpuAt u with prank := (t.vcpuAt u).prank }) ∧
  ∀ u q, ¬ (q = r ∧ (r = 0 → u = v)) → t.rankAt u q = s.rankAt u q

/-- `t` is `s` but for the descriptor of line `L` as vCPU `v` names it (R26), the inflight list of vCPU `w`, the history,
the operations in progress and the replies: no rank, no other descriptor and no other list differs. -/
def State.OnlyLine (s t : State) (v L w : Nat) : Prop :=
  t = { s with vcpu := t.vcpu, spi := t.spi, history := t.history, tasks := t.tasks, replies := t.replies } ∧
  (∀ u, t.vcpuAt u =
    { s.vcpuAt u with pdesc := (t.vcpuAt u).pdesc, inflight := (t.vcpuAt u).inflight }) ∧
  (∀ u M, ¬ (M = L ∧ (L < 32 → u = v)) → t.desc u M = s.desc u M) ∧
  ∀ u, u ≠ w → t.inflight u = s.inflight u

/-- What the k-th operation leaves after a step, `x`: it goes on as `x`, or, with no step left, it is in progress no more
and an access returns `Handled` (R41, 46_ports_lifecycle.md R261). -/
def State.Leaves (s t : State) (k : Nat) (x : Task) : Prop :=
  if x.isDone then
    t.tasks = s.tasks.eraseIdx k ∧
    t.replies = s.replies ++ (match x.accessor with | some v => [⟨v, .handled⟩] | none => [])
  else t.tasks = s.tasks.set k x ∧ t.replies = s.replies

/-! ### Invariants -/

/-- The records have the lengths the parameters give them (10_state.md R20). -/
abbrev State.Sized (s : State) : Prop :=
  s.shared.length = s.cfg.nsr ∧ s.spi.length = s.cfg.nrSpi ∧ s.vcpu.length = s.cfg.nvcpu ∧
  s.env.length = s.cfg.nvcpu

/-- The linkage invariant (10_state.md R28): `Desc(v, L).linked = some u` exactly when `L` is in `u`'s inflight list and,
for a private line, `u = v`; no list holds a line twice, and lists hold lines of the domain only. -/
abbrev State.LinkageOk (s : State) : Prop :=
  (∀ v < s.cfg.nvcpu, (s.inflight v).Nodup ∧ ∀ L ∈ s.inflight v, L < s.cfg.nlines) ∧
  ∀ v < s.cfg.nvcpu, ∀ L < s.cfg.nlines,
    (s.desc v L).linked.all (fun u => decide (u < s.cfg.nvcpu)) = true ∧
    ∀ u < s.cfg.nvcpu, ((s.desc v L).linked = some u ↔ (L ∈ s.inflight u ∧ (L < 32 → u = v)))

/-- The ordering invariant (10_state.md R29): in every inflight list the `prio` values do not decrease. -/
abbrev State.OrderOk (s : State) : Prop :=
  ∀ v < s.cfg.nvcpu, (s.inflight v).Pairwise (fun x y => (s.desc v x).prio ≤ (s.desc v y).prio)

/-- Does vCPU `v` exist (46_ports_lifecycle.md R255)? -/
def State.hasVcpu (s : State) (v : Nat) : Bool := decide (v < s.cfg.nvcpu) && (s.vcpuAt v).created

/-- An injection in progress names an existing vCPU and a line of the domain (44_injection.md R210). -/
def Injection.ok (s : State) : Injection → Bool
  | .none => true
  | .link v L => s.hasVcpu v && decide (L < s.cfg.nlines)
  | .notify v => s.hasVcpu v

/-- Every set bit of the mask of word `n` is a line of the domain (43_enable_disable.md R190). -/
def linesOk (c : Config) (m : Word) (n : Nat) : Bool :=
  (List.range 32).all (fun i => !(m.getLsbD i) || decide (32 * n + i < c.nlines))

/-- The work left belongs to the accessor and names lines of the domain (R190, R194, 45_sgi.md R235). -/
def Work.ok (s : State) (accessor : Option Nat) : Work → Bool
  | .nothing => true
  | .enable v m n => accessor == some v && linesOk s.cfg m n
  | .disable v m n => accessor == some v && linesOk s.cfg m n
  | .fanOut _ id => accessor.isSome && decide (id < 16)

/-- A continuation record has work left and names what exists (10_state.md R41). -/
def Task.ok (s : State) (t : Task) : Bool :=
  !t.isDone && t.accessor.all (fun v => s.hasVcpu v) && t.inj.ok s && t.work.ok s t.accessor

/-- The operations in progress are sound, one vCPU has at most one access in progress (46_ports_lifecycle.md R261), and
a domain that is terminated or not live has none (41_mmio_dispatch.md R139). -/
abbrev State.TasksOk (s : State) : Prop :=
  (∀ t ∈ s.tasks, t.ok s = true) ∧
  s.tasks.Pairwise (fun t u => t.accessor = none ∨ t.accessor ≠ u.accessor) ∧
  ((s.terminated = true ∨ s.phase ≠ .live) → s.tasks = [])

/-- A vCPU that is not created is all zero: after a teardown by 46_ports_lifecycle.md R256, before its first creation by
the model's choice (log 24). -/
abbrev State.AbsentOk (s : State) : Prop :=
  ∀ v < s.cfg.nvcpu, (s.vcpuAt v).created = false → s.vcpuAt v = VcpuState.absent

/-- The structural invariant: legal parameters, sized records, the linkage invariant (R28), sound operations in progress
(R41, R261, R139), and zero state of vCPUs that do not exist (R256, log 24). -/
abbrev State.Inv (s : State) : Prop :=
  s.cfg.valid = true ∧ s.Sized ∧ s.LinkageOk ∧ s.TasksOk ∧ s.AbsentOk

/-- The fields no operation sets are zero (10_state.md R38). -/
abbrev Rank.QuietOk (R : Rank) : Prop :=
  R.pending = 0#32 ∧ R.active = 0#32 ∧ R.pendsgi = Vector.replicate 16 0#8

/-- The fields of invalid lines of rank `r` are zero (10_state.md R39). -/
abbrev Rank.InvalidOk (c : Config) (r : Nat) (R : Rank) : Prop :=
  R.enable &&& ~~~(validMask c r) = 0#32 ∧
  (∀ i < 32, (validMask c r).getLsbD i = false → R.priority.getD i 0#8 = 0#8 ∧ R.target.getD i 0#8 = 0#8) ∧
  ∀ w < 2, R.config.getD w 0#32 &&& ~~~(mask2 c r w) = 0#32

/-- What the registers of reachable states hold beside the writable bits: the quiet fields are zero (R38), the fields of
invalid lines are zero (R39), the private target masks name their vCPU alone (R23), and the private config words are
zero (42_mmio_line_registers.md R167, R168). Of a vCPU not yet created, that its rank is zero is log 24. -/
abbrev State.RegistersOk (s : State) : Prop :=
  (∀ r < s.cfg.nsr, (s.rankAt 0 (r + 1)).QuietOk ∧ (s.rankAt 0 (r + 1)).InvalidOk s.cfg (r + 1)) ∧
  ∀ v < s.cfg.nvcpu,
    (s.rankAt v 0).QuietOk ∧ (s.rankAt v 0).config = Vector.replicate 2 0#32 ∧
    ((s.vcpuAt v).created = true → (s.rankAt v 0).target = Vector.replicate 32 (1#8 <<< v))

/-! ### The bound of an operation's own steps (70_reset_and_hazards.md R346) -/

/-- The number of set bits of a mask. -/
def bitCount {w : Nat} (m : BitVec w) : Nat := ((List.range w).filter (fun i => m.getLsbD i)).length

/-- The steps an injection still takes (R344). -/
def Injection.bound : Injection → Nat
  | .none => 0
  | .link _ _ => 2
  | .notify _ => 1

/-- Does word `n` with mask `m` hold the event-channel line, whose enable may force an injection (R192)? -/
def holdsEvtchn (c : Config) (m : Word) (n : Nat) : Bool :=
  (List.range 32).any (fun i => m.getLsbD i && c.evtchnLine == some (32 * n + i))

/-- At most how many steps the work left takes: one per bit and two for a forced injection (R343), one per disabled bit,
three per SGI target (R345). -/
def Work.bound (c : Config) : Work → Nat
  | .nothing => 0
  | .enable _ m n => bitCount m + (if holdsEvtchn c m n then 2 else 0)
  | .disable _ m _ => bitCount m
  | .fanOut m _ => 3 * bitCount m

/-- At most how many own steps the operation has left (R346). -/
def Task.bound (c : Config) (t : Task) : Nat := t.inj.bound + t.work.bound c

/-- At most how many steps all operations in progress have left. -/
def State.bound (s : State) : Nat := (s.tasks.map (fun t => t.bound s.cfg)).sum

/-- At most how many steps an access of the group takes after its first one (R346): 35, 33, 25 or 1 in all. -/
def Group.laterSteps : Group → Nat
  | .isenabler => 34
  | .icenabler => 32
  | .sgir => 24
  | .ctlr | .typer | .iidr | .rsvd | .impdef | .pid | .igroupr | .ispendr | .icpendr | .isactiver | .icactiver
  | .ipriorityr | .itargetsr | .icfgr | .nsacr | .cpendsgir | .spendsgir => 0

end Machine

end Sys2Proof
end

