-- ==== Sys2Proof/Certificates/Slice0/Obligations.lean ====
section
/-! DEFINITION. The statements about the model, for the provers. A docstring names the rules of spec/ the statement is
drawn from, or says that a clause is the model's choice and names the log entry. -/

open Sys2Proof Sys2Proof.Machine

/-! ### Decode and encode -/

/-- Decoding what the encoder writes gives the instruction back, for every well-formed instruction and every value of
its operands (30_encoding.md R70 to R79; the byte layout is log 6). -/
def Obligations.DecodeEncodeAgree : Prop := ∀ i : Instr, i.WF → decode (encode i) = .ok i

/-- Whatever the bytes, the decoder answers well-formed instructions only (R72 to R74, R79; log 8). -/
def Obligations.DecodedIsWellFormed : Prop := ∀ (bs : List Byte) (i : Instr), decode bs = .ok i → i.WF

/-- The decoder answers every access tuple of R70, and nothing that is not one (R89; the byte layout is log 6). -/
def Obligations.DecoderAnswersExactlyTuples : Prop :=
  ∀ (bs : List Byte) (i : Instr), decode bs = .ok i ↔ ∃ x : Access, bs = x.toBytes ∧ i = decodeAccess x

/-- Decoding is total, the row with the most mask bits is the one selected, and it is the only one with that many
(R73). That no two rows with the same number of mask bits match one key is marked in the spec as its own inference. -/
def Obligations.MostSpecificRowSelected : Prop :=
  ∀ x : Access, ∃ r ∈ keyRows, r.hits x.key = true ∧ decodeAccess x = r.build x ∧
    ∀ q ∈ keyRows, q.hits x.key = true →
      bitCount q.mask ≤ bitCount r.mask ∧
      (bitCount q.mask = bitCount r.mask → q.mask = r.mask ∧ q.pattern = r.pattern)

/-- The group, the direction and the register word index come from the key alone, and the low two offset bits select
none of them (R71). -/
def Obligations.KeyAloneSelectsGroup : Prop :=
  ∀ x y : Access, x.W = y.W → x.off.extractLsb' 2 10 = y.off.extractLsb' 2 10 →
    (decodeAccess x).group = (decodeAccess y).group ∧ (decodeAccess x).wordIndex = (decodeAccess y).wordIndex ∧
    (decodeAccess x).isRead = (decodeAccess y).isRead

/-- Words written out from the map of R72 and the value formats of R78 and R79 decode to the instructions they stand
for (the layout of a table word is log 8). -/
def Obligations.SpecWordsDecode : Prop :=
  decodeTableWord 13 0b0000100000100 = some (.rdIsenabler 1#5 ⟨0#8, .byte, false, 0#2⟩) ∧
  decodeTableWord 13 0b1000110000000 = some (.wrIcenabler 0#5 ⟨0#8, .byte, 0#2, 0#32⟩) ∧
  decodeTableWord 13 0b1010000000101 = some (.wrIpriorityr 1#8 ⟨0#8, .byte, 1#2, 0#32⟩) ∧
  decodeTableWord 13 0b0011111111100 = some (.rdRsvd7FC ⟨0#8, .byte, false, 0#2⟩) ∧
  decodeTableWord 13 0b1110000000100 = some (.wrIcfgrRo 1#1 ⟨0#8, .byte, 0#2, 0#32⟩) ∧
  decodeTableWord 32 0x00050007 = some (.wrSgirList 0#8 0x05#8 7#4) ∧
  decodeTableWord 32 0x02000003 = some (.wrSgirSelf 0#8 3#4)

/-- Each pseudo-operation of R88 is the one access it stands for. -/
def Obligations.PseudoOperationsExpand : Prop :=
  (∀ (v : Byte) (L : Nat), L < 1024 →
    decode (pseudoEnable v L).toBytes =
      .ok (.wrIsenabler (BitVec.ofNat 5 (L / 32)) ⟨v, .word, 0#2, BitVec.twoPow 32 (L % 32)⟩) ∧
    decode (pseudoDisable v L).toBytes =
      .ok (.wrIcenabler (BitVec.ofNat 5 (L / 32)) ⟨v, .word, 0#2, BitVec.twoPow 32 (L % 32)⟩)) ∧
  (∀ (v p : Byte) (L : Nat), L < 1020 →
    decode (pseudoSetPrio v L p).toBytes =
      .ok (.wrIpriorityr (BitVec.ofNat 8 (L / 4)) ⟨v, .byte, BitVec.ofNat 2 (L % 4), p.setWidth 32⟩) ∧
    (32 ≤ L → decode (pseudoSetTarget v L p).toBytes =
      .ok (.wrItargetsr (BitVec.ofNat 8 (L / 4)) ⟨v, .byte, BitVec.ofNat 2 (L % 4), p.setWidth 32⟩)) ∧
    (L < 32 → decode (pseudoSetTarget v L p).toBytes =
      .ok (.wrItargetsrRo (BitVec.ofNat 3 (L / 4)) ⟨v, .byte, BitVec.ofNat 2 (L % 4), p.setWidth 32⟩))) ∧
  (∀ (v : Byte) (n : Nat) (x : Word),
    (2 ≤ n → n < 64 → decode (pseudoSetCfg v n x).toBytes = .ok (.wrIcfgr (BitVec.ofNat 6 n) ⟨v, .word, 0#2, x⟩)) ∧
    (n < 2 → decode (pseudoSetCfg v n x).toBytes = .ok (.wrIcfgrRo (BitVec.ofNat 1 n) ⟨v, .word, 0#2, x⟩))) ∧
  ∀ (v m : Byte) (i : BitVec 4),
    decode (pseudoSgiList v m i).toBytes = .ok (.wrSgirList v m i) ∧
    decode (pseudoSgiOthers v i).toBytes = .ok (.wrSgirOthers v i) ∧
    decode (pseudoSgiSelf v i).toBytes = .ok (.wrSgirSelf v i)

/-! ### Dispatch and the step -/

/-- For every instruction, the first condition that holds decides (60_exceptions.md R305): no step
(41_mmio_dispatch.md R120), the benign outcome of an absent rank (R122), Fatal on a width the group does not allow
(R123, R301), and else the group's rule, which completes. That "no step" is an answer of the form `.refused (.port c)`
is the model's choice (log 5), and so is that an access presented while its vCPU has one in progress has no step of
its own (log 4). -/
def Obligations.OutcomePrecedence : Prop :=
  ∀ (i : Instr) (s : State),
    (¬ s.Ready i.accessor.toNat → ∃ c, exec i s = .refused (.port c)) ∧
    (s.Ready i.accessor.toNat →
      (¬ s.Present i.group i.wordIndex →
        exec i s = .next (s.reply i.accessor.toNat (if i.isRead then .handledRead 0#32 else .handled))) ∧
      (s.Present i.group i.wordIndex → ¬ i.group.WidthAllowed i.size i.byteLane →
        exec i s = .next (s.fatal i.accessor.toNat)) ∧
      (s.Present i.group i.wordIndex → i.group.WidthAllowed i.size i.byteLane →
        ∃ t, exec i s = .next t ∧ t.terminated = false))

/-- A step at a presented access runs the decoded instruction. What the step adds is the model's (log 3, 4, 5): it takes
the access off the stream, notes a refused access, and lets an access wait while its vCPU has one in progress. -/
def Obligations.StepRunsDecodedInstruction : Prop :=
  ∀ (s : State) (bs : List Byte) (rest : List Input) (i : Instr),
    s.inputs = .access bs :: rest → decode bs = .ok i →
    ((∀ x ∈ s.tasks, x.accessor ≠ some i.accessor.toNat) →
      (∀ t, exec i { s with inputs := rest } = .next t → step s = .next t) ∧
      (∀ c, exec i { s with inputs := rest } = .refused (.port c) →
        step s = .next { s with inputs := rest, refusals := s.refusals ++ [c] })) ∧
    (∀ k x, s.tasks[k]? = some x → x.accessor = some i.accessor.toNat →
      (∀ j < k, ∀ y, s.tasks[j]? = some y → y.accessor ≠ some i.accessor.toNat) → step s = advance k s)

/-- A step at any other input serves it. The stream and its order are the model's (log 3, 4, 5). -/
def Obligations.StepServesTheOtherInputs : Prop :=
  ∀ (s : State) (rest : List Input),
    (∀ op, s.inputs = .port op :: rest →
      (∀ t, portStep op { s with inputs := rest } = .next t → step s = .next t) ∧
      (∀ c, portStep op { s with inputs := rest } = .refused (.port c) →
        step s = .next { s with inputs := rest, refusals := s.refusals ++ [c] })) ∧
    (∀ m, s.inputs = .env m :: rest →
      (∀ t, envStep m { s with inputs := rest } = .next t → step s = .next t) ∧
      (∀ c, envStep m { s with inputs := rest } = .refused (.port c) →
        step s = .next { s with inputs := rest, refusals := s.refusals ++ [c] })) ∧
    (∀ k, s.inputs = .resume k :: rest → step s = advance k { s with inputs := rest }) ∧
    (s.inputs = .await :: rest →
      step s = if s.tasks = [] then .next { s with inputs := rest } else advance 0 s) ∧
    (s.inputs = [] → step s = if s.tasks = [] then .next s else advance 0 s)

/-- The accesses of the table of R303 return `Unhandled`, write no state and emit nothing; no other access returns
`Unhandled` (60_exceptions.md R303, 41_mmio_dispatch.md R125). -/
def Obligations.UnhandledExactlyWhereListed : Prop :=
  (∀ (n : BitVec 5) (m : BitVec 2) (a : WriteArgs) (s : State) (i : Instr),
    i ∈ [Instr.wrIspendr n a, .wrIcpendr n a, .wrCpendsgir m a, .wrSpendsgir m a] →
    s.Ready a.v.toNat → s.Present i.group i.wordIndex → a.byteOrWord →
      exec i s = .next (s.reply a.v.toNat .unhandled)) ∧
  (∀ (n : BitVec 2) (m : BitVec 3) (a : ReadArgs) (s : State) (i : Instr),
    i ∈ [Instr.rdPid n a, .rdPidFE0 m a] → s.Ready a.v.toNat → a.alignedWord →
      exec i s = .next (s.reply a.v.toNat .unhandled)) ∧
  ∀ (i : Instr) (s t : State), exec i s = .next t →
    t.replies = s.replies ++ [⟨i.accessor.toNat, .unhandled⟩] →
    (i.isRead = false ∧ i.group ∈ [Group.ispendr, .icpendr, .cpendsgir, .spendsgir] ∧
      s.Present i.group i.wordIndex ∧ i.group.WidthAllowed i.size i.byteLane) ∨
    (i.isRead = true ∧ i.group = .pid ∧ i.size = .word ∧ i.byteLane = 0#2)

/-- Fatal, the block's only exception: a width the group does not allow, at a present register, terminates the domain,
emits `DomainCrash`, returns `Fatal` and changes nothing else; no other access terminates the domain, and no other
step of the machine does (60_exceptions.md R301, 41_mmio_dispatch.md R124). That the operations in progress are
dropped is the model's inference (log 10), and that an access is taken off an input stream is its form (log 3). -/
def Obligations.FatalOutcome : Prop :=
  (∀ (i : Instr) (s : State),
    (s.Ready i.accessor.toNat → s.Present i.group i.wordIndex → ¬ i.group.WidthAllowed i.size i.byteLane →
      exec i s = .next { s with
        terminated := true
        history := s.history ++ [.domainCrash]
        replies := s.replies ++ [⟨i.accessor.toNat, .fatal⟩]
        tasks := [] }) ∧
    ∀ t, exec i s = .next t → t.terminated = true →
      s.Present i.group i.wordIndex ∧ ¬ i.group.WidthAllowed i.size i.byteLane) ∧
  ∀ s t : State, step s = .next t → s.terminated = false → t.terminated = true →
    ∃ (bs : List Byte) (rest : List Input) (i : Instr), s.inputs = .access bs :: rest ∧ decode bs = .ok i ∧
      s.Ready i.accessor.toNat ∧ s.Present i.group i.wordIndex ∧ ¬ i.group.WidthAllowed i.size i.byteLane ∧
      t = { s with inputs := rest }.fatal i.accessor.toNat

/-- No read changes state or emits an event, but for the Fatal outcome (20_memory.md R60). The count of free values is
the model's (log 9). -/
def Obligations.ReadsChangeNothing : Prop :=
  ∀ (i : Instr) (s t : State), i.isRead = true → exec i s = .next t → t.terminated = false →
    (∃ x, t = { s with replies := s.replies ++ [⟨i.accessor.toNat, x⟩], draws := t.draws }) ∧
    (t.draws ≠ s.draws → ∃ a, i = .rdSgir a)

/-- The first step of an access writes at most one rank, the one `resolve_rank` returned, and only the writes of six
groups write one; it writes no descriptor, no inflight list and no environment input (70_reset_and_hazards.md R341).
The statement is about what is written, not about what is read. -/
def Obligations.AccessTouchesOneRank : Prop :=
  ∀ (i : Instr) (s t : State), exec i s = .next t →
    (t.phase = s.phase ∧ t.cfg = s.cfg ∧ t.spi = s.spi ∧ t.env = s.env ∧ t.inputs = s.inputs) ∧
    (∀ u, t.vcpuAt u = { s.vcpuAt u with prank := (t.vcpuAt u).prank }) ∧
    ∀ u q, t.rankAt u q ≠ s.rankAt u q →
      i.isRead = false ∧ i.group ∈ [Group.isenabler, .icenabler, .icactiver, .ipriorityr, .itargetsr, .icfgr] ∧
      (∀ b ∈ i.group.bitsPerLine, q = i.wordIndex / b) ∧ (q = 0 → u = i.accessor.toNat)

/-! ### Reads -/

/-- RD.CTLR and RD.IIDR (41_mmio_dispatch.md R127, R130). -/
def Obligations.ControlAndIdentificationReads : Prop :=
  ∀ (a : ReadArgs) (s : State), s.Ready a.v.toNat →
    (a.alignedWord →
      exec (.rdCtlr a) s = .next (s.reply a.v.toNat (.handledRead (s.ctlr.setWidth 32))) ∧
      exec (.rdIidr a) s = .next (s.reply a.v.toNat (.handledRead s.cfg.iidrValue))) ∧
    (¬ a.alignedWord → ∀ i ∈ [Instr.rdCtlr a, .rdIidr a], exec i s = .next (s.fatal a.v.toNat))

/-- RD.TYPER, field by field (30_encoding.md R76): the rank count in bits [4:0], the vCPU count less one in bits [7:5],
and nothing above. -/
def Obligations.TyperReadsCounts : Prop :=
  ∀ (a : ReadArgs) (s : State), s.Ready a.v.toNat → s.cfg.valid = true →
    (a.alignedWord → ∃ x, exec (.rdTyper a) s = .next (s.reply a.v.toNat (.handledRead x)) ∧
      (x.extractLsb' 0 5).toNat = s.cfg.nsr ∧ (x.extractLsb' 5 3).toNat + 1 = s.cfg.nvcpu ∧
      x.extractLsb' 8 24 = 0#24) ∧
    (¬ a.alignedWord → exec (.rdTyper a) s = .next (s.fatal a.v.toNat))

/-- The registers that read as zero: RD.IGROUPR, RD.NSACR, RD.RSVD and RD.IMPDEF (41_mmio_dispatch.md R131 to R134),
for an allowed width, and for any width where the rank is absent; else Fatal. -/
def Obligations.ZeroRegistersReadZero : Prop :=
  ∀ (o : BitVec 10) (n3 : BitVec 3) (n6 : BitVec 6) (n5 : BitVec 5) (a : ReadArgs) (s : State) (i : Instr),
    i ∈ [Instr.rdRsvd o a, .rdRsvd7FC a, .rdRsvdBFC a, .rdImpdef n3 a, .rdImpdefD00 n6 a, .rdIgroupr n5 a,
      .rdNsacr n6 a] →
    s.Ready a.v.toNat →
    (a.alignedWord ∨ ¬ s.Present i.group i.wordIndex →
      exec i s = .next (s.reply a.v.toNat (.handledRead 0#32))) ∧
    (¬ a.alignedWord → s.Present i.group i.wordIndex → exec i s = .next (s.fatal a.v.toNat))

/-- RD.SGIR (41_mmio_dispatch.md R135) returns a free value, a fresh one at each read; that it stands in a counter of
the model is log 9. -/
def Obligations.SgirReadIsFree : Prop :=
  ∀ (a : ReadArgs) (s : State), s.Ready a.v.toNat →
    (a.alignedWord → exec (.rdSgir a) s =
      .next { s.reply a.v.toNat (.handledRead (Config.freeWord s.draws)) with draws := s.draws + 1 }) ∧
    (¬ a.alignedWord → exec (.rdSgir a) s = .next (s.fatal a.v.toNat))

/-- RD.ISENABLER, RD.ICENABLER, RD.ISACTIVER, RD.ICACTIVER and RD.ICFGR at a present rank
(42_mmio_line_registers.md R150, R151, R158, R159, R167). -/
def Obligations.BitmapAndConfigReads : Prop :=
  ∀ (a : ReadArgs) (s : State), s.Ready a.v.toNat →
    (∀ n : BitVec 5, n.toNat ≤ s.cfg.nsr →
      (a.alignedWord →
        exec (.rdIsenabler n a) s =
          .next (s.reply a.v.toNat (.handledRead (s.rankAt a.v.toNat n.toNat).enable)) ∧
        exec (.rdIcenabler n a) s =
          .next (s.reply a.v.toNat (.handledRead (s.rankAt a.v.toNat n.toNat).enable)) ∧
        exec (.rdIsactiver n a) s =
          .next (s.reply a.v.toNat (.handledRead (s.rankAt a.v.toNat n.toNat).active)) ∧
        exec (.rdIcactiver n a) s =
          .next (s.reply a.v.toNat (.handledRead (s.rankAt a.v.toNat n.toNat).active))) ∧
      (¬ a.alignedWord →
        ∀ i ∈ [Instr.rdIsenabler n a, .rdIcenabler n a, .rdIsactiver n a, .rdIcactiver n a],
          exec i s = .next (s.fatal a.v.toNat))) ∧
    ∀ n : BitVec 6, n.toNat / 2 ≤ s.cfg.nsr →
      (a.alignedWord → exec (.rdIcfgr n a) s =
        .next (s.reply a.v.toNat
          (.handledRead ((s.rankAt a.v.toNat (n.toNat / 2)).config.getD (n.toNat % 2) 0#32)))) ∧
      (¬ a.alignedWord → exec (.rdIcfgr n a) s = .next (s.fatal a.v.toNat))

/-- RD.ISPENDR and RD.ICPENDR at a present rank, RD.CPENDSGIR and RD.SPENDSGIR (42_mmio_line_registers.md R154, R155,
R170, R171): the whole word, or its addressed byte extended as the signedness flag says. -/
def Obligations.PendingAndSgiSourceReads : Prop :=
  ∀ (a : ReadArgs) (s : State), s.Ready a.v.toNat → a.byteOrWord →
    (∀ n : BitVec 5, n.toNat ≤ s.cfg.nsr → ∃ x : Word,
      exec (.rdIspendr n a) s = .next (s.reply a.v.toNat (.handledRead x)) ∧
      exec (.rdIcpendr n a) s = .next (s.reply a.v.toNat (.handledRead x)) ∧
      (a.sz = .word → x = (s.rankAt a.v.toNat n.toNat).pending) ∧
      (a.sz = .byte → ∀ j < 32, x.getLsbD j =
        if j < 8 then (s.rankAt a.v.toNat n.toNat).pending.getLsbD (8 * a.lane.toNat + j)
        else (a.sg && (s.rankAt a.v.toNat n.toNat).pending.getLsbD (8 * a.lane.toNat + 7)))) ∧
    ∀ n : BitVec 2, ∃ x : Word,
      exec (.rdCpendsgir n a) s = .next (s.reply a.v.toNat (.handledRead x)) ∧
      exec (.rdSpendsgir n a) s = .next (s.reply a.v.toNat (.handledRead x)) ∧
      (a.sz = .word → ∀ k < 4,
        x.extractLsb' (8 * k) 8 = (s.vcpuAt a.v.toNat).prank.pendsgi.getD (4 * n.toNat + k) 0#8) ∧
      (a.sz = .byte → x =
        if a.sg then ((s.vcpuAt a.v.toNat).prank.pendsgi.getD (4 * n.toNat + a.lane.toNat) 0#8).signExtend 32
        else ((s.vcpuAt a.v.toNat).prank.pendsgi.getD (4 * n.toNat + a.lane.toNat) 0#8).setWidth 32)

/-- RD.IPRIORITYR and RD.ITARGETSR at a present rank (42_mmio_line_registers.md R162, R164): lane k of a word is the byte
of line 4n + k, and a byte read returns the addressed one, extended as the signedness flag says. -/
def Obligations.PriorityAndTargetReads : Prop :=
  ∀ (n : BitVec 8) (a : ReadArgs) (s : State), s.Ready a.v.toNat → n.toNat / 8 ≤ s.cfg.nsr → a.byteOrWord →
    ∃ x y : Word,
      exec (.rdIpriorityr n a) s = .next (s.reply a.v.toNat (.handledRead x)) ∧
      exec (.rdItargetsr n a) s = .next (s.reply a.v.toNat (.handledRead y)) ∧
      (a.sz = .word → ∀ k < 4,
        x.extractLsb' (8 * k) 8 =
          (s.rankAt a.v.toNat (n.toNat / 8)).priority.getD (4 * (n.toNat % 8) + k) 0#8 ∧
        y.extractLsb' (8 * k) 8 =
          (s.rankAt a.v.toNat (n.toNat / 8)).target.getD (4 * (n.toNat % 8) + k) 0#8) ∧
      (a.sz = .byte → ∀ j < 32,
        x.getLsbD j =
          (if j < 8 then
            ((s.rankAt a.v.toNat (n.toNat / 8)).priority.getD (4 * (n.toNat % 8) + a.lane.toNat) 0#8).getLsbD j
          else (a.sg &&
            ((s.rankAt a.v.toNat (n.toNat / 8)).priority.getD (4 * (n.toNat % 8) + a.lane.toNat) 0#8).getLsbD 7)) ∧
        y.getLsbD j =
          (if j < 8 then
            ((s.rankAt a.v.toNat (n.toNat / 8)).target.getD (4 * (n.toNat % 8) + a.lane.toNat) 0#8).getLsbD j
          else (a.sg &&
            ((s.rankAt a.v.toNat (n.toNat / 8)).target.getD (4 * (n.toNat % 8) + a.lane.toNat) 0#8).getLsbD 7)))

/-- A byte read returns lane `off[1:0]` of the value the word read of the same register word would return at that
instant (20_memory.md R62), for every group that allows bytes. R62 is marked in the spec as its own inference from R53
and R106. -/
def Obligations.ByteReadIsLaneOfWordRead : Prop :=
  ∀ (n5 : BitVec 5) (n8 : BitVec 8) (n2 : BitVec 2) (f : ReadArgs → Instr),
    f ∈ [Instr.rdIspendr n5, .rdIcpendr n5, .rdIpriorityr n8, .rdItargetsr n8, .rdCpendsgir n2, .rdSpendsgir n2] →
    ∀ (v : Byte) (l : BitVec 2) (sg sg' : Bool) (x : Word) (s : State),
      exec (f ⟨v, .word, sg, 0#2⟩) s = .next (s.reply v.toNat (.handledRead x)) →
      exec (f ⟨v, .byte, sg', l⟩) s = .next (s.reply v.toNat (.handledRead
        (if sg' then (x.extractLsb' (8 * l.toNat) 8).signExtend 32
         else (x.extractLsb' (8 * l.toNat) 8).setWidth 32)))

/-! ### Writes -/

/-- WR.CTLR keeps bit 0 and changes nothing else (41_mmio_dispatch.md R128). -/
def Obligations.CtlrWriteKeepsBitZero : Prop :=
  ∀ (a : WriteArgs) (s : State), s.Ready a.v.toNat →
    (a.alignedWord → exec (.wrCtlr a) s =
      .next ({ s with ctlr := BitVec.ofBool (a.val.getLsbD 0) }.reply a.v.toNat .handled)) ∧
    (¬ a.alignedWord → exec (.wrCtlr a) s = .next (s.fatal a.v.toNat))

/-- The writes that are accepted with no effect (41_mmio_dispatch.md R129 to R134, R137, 42_mmio_line_registers.md R160,
R165, R168): `Handled` and nothing else for an allowed width or an absent rank, else Fatal. -/
def Obligations.IgnoredWrites : Prop :=
  ∀ (o : BitVec 10) (n1 : BitVec 1) (n2 : BitVec 2) (n3 : BitVec 3) (n5 : BitVec 5) (n6 : BitVec 6) (a : WriteArgs)
    (s : State) (i : Instr),
    i ∈ [Instr.wrTyper a, .wrIidr a, .wrRsvd o a, .wrRsvd7FC a, .wrRsvdBFC a, .wrImpdef n3 a, .wrImpdefD00 n6 a,
      .wrPid n2 a, .wrPidFE0 n3 a, .wrIgroupr n5 a, .wrNsacr n6 a, .wrIsactiver n5 a, .wrItargetsrRo n3 a,
      .wrIcfgrRo n1 a] →
    s.Ready a.v.toNat →
    (i.group.WidthAllowed a.sz a.lane ∨ ¬ s.Present i.group i.wordIndex →
      exec i s = .next (s.reply a.v.toNat .handled)) ∧
    (¬ i.group.WidthAllowed a.sz a.lane → s.Present i.group i.wordIndex →
      exec i s = .next (s.fatal a.v.toNat))

/-- WR.ISENABLER at a present rank (42_mmio_line_registers.md R152): the rank phase sets the written bits of valid lines
and changes nothing else, and one enable step for each bit newly set is left to do; with none the access returns
`Handled` at once (log 15). -/
def Obligations.SetEnableWrite : Prop :=
  ∀ (n : BitVec 5) (a : WriteArgs) (s : State), s.Sized → s.Ready a.v.toNat → n.toNat ≤ s.cfg.nsr →
    (a.alignedWord → ∃ (t : State) (m : Word),
      exec (.wrIsenabler n a) s = .next
        (if m = 0#32 then t.reply a.v.toNat .handled
         else { t with tasks := s.tasks ++
          [⟨some a.v.toNat, (s.envAt a.v.toNat).runningOn, .none, .enable a.v.toNat m n.toNat⟩] }) ∧
      s.OnlyRank t a.v.toNat n.toNat ∧
      t.rankAt a.v.toNat n.toNat =
        { s.rankAt a.v.toNat n.toNat with enable := (t.rankAt a.v.toNat n.toNat).enable } ∧
      ∀ i < 32,
        (t.rankAt a.v.toNat n.toNat).enable.getLsbD i =
          ((s.rankAt a.v.toNat n.toNat).enable.getLsbD i ||
            (a.val.getLsbD i && decide (32 * n.toNat + i < s.cfg.nlines))) ∧
        m.getLsbD i = (a.val.getLsbD i && decide (32 * n.toNat + i < s.cfg.nlines) &&
          !(s.rankAt a.v.toNat n.toNat).enable.getLsbD i)) ∧
    (¬ a.alignedWord → exec (.wrIsenabler n a) s = .next (s.fatal a.v.toNat))

/-- WR.ICENABLER at a present rank (42_mmio_line_registers.md R153): the rank phase clears the written bits of valid lines
and changes nothing else, and one disable step for each bit newly cleared is left to do; with none the access returns
`Handled` at once (log 15). -/
def Obligations.ClearEnableWrite : Prop :=
  ∀ (n : BitVec 5) (a : WriteArgs) (s : State), s.Sized → s.Ready a.v.toNat → n.toNat ≤ s.cfg.nsr →
    (a.alignedWord → ∃ (t : State) (m : Word),
      exec (.wrIcenabler n a) s = .next
        (if m = 0#32 then t.reply a.v.toNat .handled
         else { t with tasks := s.tasks ++
          [⟨some a.v.toNat, (s.envAt a.v.toNat).runningOn, .none, .disable a.v.toNat m n.toNat⟩] }) ∧
      s.OnlyRank t a.v.toNat n.toNat ∧
      t.rankAt a.v.toNat n.toNat =
        { s.rankAt a.v.toNat n.toNat with enable := (t.rankAt a.v.toNat n.toNat).enable } ∧
      ∀ i < 32,
        (t.rankAt a.v.toNat n.toNat).enable.getLsbD i =
          ((s.rankAt a.v.toNat n.toNat).enable.getLsbD i &&
            !(a.val.getLsbD i && decide (32 * n.toNat + i < s.cfg.nlines))) ∧
        m.getLsbD i = (a.val.getLsbD i && decide (32 * n.toNat + i < s.cfg.nlines) &&
          (s.rankAt a.v.toNat n.toNat).enable.getLsbD i)) ∧
    (¬ a.alignedWord → exec (.wrIcenabler n a) s = .next (s.fatal a.v.toNat))

/-- WR.ICACTIVER at a present rank (42_mmio_line_registers.md R161): the written bits of valid lines of the active bitmap
are cleared; no descriptor and no inflight list is touched. -/
def Obligations.ClearActiveWrite : Prop :=
  ∀ (n : BitVec 5) (a : WriteArgs) (s : State), s.Sized → s.Ready a.v.toNat → n.toNat ≤ s.cfg.nsr →
    (a.alignedWord → ∃ t, exec (.wrIcactiver n a) s = .next (t.reply a.v.toNat .handled) ∧
      s.OnlyRank t a.v.toNat n.toNat ∧
      t.rankAt a.v.toNat n.toNat =
        { s.rankAt a.v.toNat n.toNat with active := (t.rankAt a.v.toNat n.toNat).active } ∧
      ∀ i < 32, (t.rankAt a.v.toNat n.toNat).active.getLsbD i =
        ((s.rankAt a.v.toNat n.toNat).active.getLsbD i &&
          !(a.val.getLsbD i && decide (32 * n.toNat + i < s.cfg.nlines)))) ∧
    (¬ a.alignedWord → exec (.wrIcactiver n a) s = .next (s.fatal a.v.toNat))

/-- WR.IPRIORITYR, and WR.ITARGETSR of a shared line, at a present rank (42_mmio_line_registers.md R163, R166): a word
write stores the lane of each line, a byte write stores `val[7:0]` into the addressed one, bytes of invalid lines and
every other field stay; the snapshots of inflight lines are not touched. -/
def Obligations.PriorityAndTargetWrites : Prop :=
  ∀ (n : BitVec 8) (a : WriteArgs) (s : State), s.Sized → s.Ready a.v.toNat → n.toNat / 8 ≤ s.cfg.nsr →
    (a.byteOrWord →
      (∃ t, exec (.wrIpriorityr n a) s = .next (t.reply a.v.toNat .handled) ∧
        s.OnlyRank t a.v.toNat (n.toNat / 8) ∧
        t.rankAt a.v.toNat (n.toNat / 8) =
          { s.rankAt a.v.toNat (n.toNat / 8) with priority := (t.rankAt a.v.toNat (n.toNat / 8)).priority } ∧
        ∀ j < 32, (t.rankAt a.v.toNat (n.toNat / 8)).priority.getD j 0#8 =
          if j / 4 = n.toNat % 8 ∧ 32 * (n.toNat / 8) + j < s.cfg.nlines ∧ (a.sz = .byte → j % 4 = a.lane.toNat) then
            a.val.extractLsb' (if a.sz = .word then 8 * (j % 4) else 0) 8
          else (s.rankAt a.v.toNat (n.toNat / 8)).priority.getD j 0#8) ∧
      (8 ≤ n.toNat → ∃ t, exec (.wrItargetsr n a) s = .next (t.reply a.v.toNat .handled) ∧
        s.OnlyRank t a.v.toNat (n.toNat / 8) ∧
        t.rankAt a.v.toNat (n.toNat / 8) =
          { s.rankAt a.v.toNat (n.toNat / 8) with target := (t.rankAt a.v.toNat (n.toNat / 8)).target } ∧
        ∀ j < 32, (t.rankAt a.v.toNat (n.toNat / 8)).target.getD j 0#8 =
          if j / 4 = n.toNat % 8 ∧ 32 * (n.toNat / 8) + j < s.cfg.nlines ∧ (a.sz = .byte → j % 4 = a.lane.toNat) then
            a.val.extractLsb' (if a.sz = .word then 8 * (j % 4) else 0) 8
          else (s.rankAt a.v.toNat (n.toNat / 8)).target.getD j 0#8)) ∧
    (¬ a.byteOrWord → ∀ i ∈ [Instr.wrIpriorityr n a, .wrItargetsr n a], exec i s = .next (s.fatal a.v.toNat))

/-- WR.ICFGR of shared lines at a present rank (42_mmio_line_registers.md R169): bits [2j+1:2j] of the word are stored
when line 16n + j is valid; every other bit and the other config word stay. -/
def Obligations.ConfigWrite : Prop :=
  ∀ (n : BitVec 6) (a : WriteArgs) (s : State), s.Sized → s.Ready a.v.toNat → 2 ≤ n.toNat →
    n.toNat / 2 ≤ s.cfg.nsr →
    (a.alignedWord → ∃ t, exec (.wrIcfgr n a) s = .next (t.reply a.v.toNat .handled) ∧
      s.OnlyRank t a.v.toNat (n.toNat / 2) ∧
      t.rankAt a.v.toNat (n.toNat / 2) =
        { s.rankAt a.v.toNat (n.toNat / 2) with config := (t.rankAt a.v.toNat (n.toNat / 2)).config } ∧
      ∀ w < 2, ∀ i < 32, ((t.rankAt a.v.toNat (n.toNat / 2)).config.getD w 0#32).getLsbD i =
        if w = n.toNat % 2 ∧ 16 * n.toNat + i / 2 < s.cfg.nlines then a.val.getLsbD i
        else ((s.rankAt a.v.toNat (n.toNat / 2)).config.getD w 0#32).getLsbD i) ∧
    (¬ a.alignedWord → exec (.wrIcfgr n a) s = .next (s.fatal a.v.toNat))

/-- Writing a priority, target or config word whose lines are all valid and reading it back gives the value written, bit
for bit (20_memory.md R60: these writes round-trip exactly). -/
def Obligations.WriteReadRoundTrip : Prop :=
  ∀ (v : Byte) (val : Word) (sg : Bool) (s : State), s.Sized → s.Ready v.toNat →
    (∀ n : BitVec 8, 4 * n.toNat + 3 < s.cfg.nlines →
      (∃ t, exec (.wrIpriorityr n ⟨v, .word, 0#2, val⟩) s = .next t ∧
        exec (.rdIpriorityr n ⟨v, .word, sg, 0#2⟩) t = .next (t.reply v.toNat (.handledRead val))) ∧
      (8 ≤ n.toNat → ∃ t, exec (.wrItargetsr n ⟨v, .word, 0#2, val⟩) s = .next t ∧
        exec (.rdItargetsr n ⟨v, .word, sg, 0#2⟩) t = .next (t.reply v.toNat (.handledRead val)))) ∧
    ∀ n : BitVec 6, 2 ≤ n.toNat → 16 * n.toNat + 15 < s.cfg.nlines →
      ∃ t, exec (.wrIcfgr n ⟨v, .word, 0#2, val⟩) s = .next t ∧
        exec (.rdIcfgr n ⟨v, .word, sg, 0#2⟩) t = .next (t.reply v.toNat (.handledRead val))

/-- WR.SGIR (41_mmio_dispatch.md R136, 45_sgi.md R230). An aligned word write to 0xF00 decodes to the row of its
filter field val[25:24] (30_encoding.md R79), whatever the ignored bits [31:26] and [15:4] hold (R85), and runs it: it
completes. Any other width decodes to the row WR.SGIR and is Fatal. That the four value rows are constructors of their
own, so that the decoder gives `wrSgir` for no aligned word, is the model's reading (log 8); the meaning of that term
is total (log 21) and agrees with the decoded row. -/
def Obligations.SgirWriteByFilter : Prop :=
  (∀ (v : Byte) (val : Word), ∃ i : Instr, decode (wordWrite v 0xF00#12 val).toBytes = .ok i ∧
    (val.extractLsb' 24 2 = 0#2 → i = .wrSgirList v (val.extractLsb' 16 8) (val.extractLsb' 0 4)) ∧
    (val.extractLsb' 24 2 = 1#2 → i = .wrSgirOthers v (val.extractLsb' 0 4)) ∧
    (val.extractLsb' 24 2 = 2#2 → i = .wrSgirSelf v (val.extractLsb' 0 4)) ∧
    (val.extractLsb' 24 2 = 3#2 → i = .wrSgirRsvd v val) ∧
    ∀ s : State, exec (.wrSgir ⟨v, .word, 0#2, val⟩) s = exec i s ∧
      (s.Ready v.toNat → ∃ t, exec i s = .next t ∧ t.terminated = false)) ∧
  ∀ (x : Access) (s : State), x.W = true → x.off.extractLsb' 2 10 = 0x3C0#10 → ¬ x.writeArgs.alignedWord →
    decode x.toBytes = .ok (.wrSgir x.writeArgs) ∧
    (s.Ready x.v.toNat → exec (.wrSgir x.writeArgs) s = .next (s.fatal x.v.toNat))

/-- The candidate masks of WR.SGIR.LIST, WR.SGIR.OTHERS and WR.SGIR.SELF (45_sgi.md R231 to R233): the list as written,
every vCPU id of the domain but the sender, and the sender alone. The first step changes nothing and leaves the targets
to do; with none the write returns `Handled` at once (log 15). -/
def Obligations.SgirTargetMasks : Prop :=
  ∀ (v list : Byte) (id : BitVec 4) (s : State), s.Ready v.toNat → s.cfg.valid = true →
    ∀ (i : Instr) (inMask : Nat → Bool),
      (i, inMask) ∈ [(Instr.wrSgirList v list id, fun j => list.getLsbD j),
        (.wrSgirOthers v id, fun j => decide (j < s.cfg.nvcpu) && decide (j ≠ v.toNat)),
        (.wrSgirSelf v id, fun j => decide (j = v.toNat))] →
      ∃ M : Byte, (∀ j < 8, M.getLsbD j = inMask j) ∧
        exec i s = .next
          (if M = 0#8 then s.reply v.toNat .handled
           else { s with tasks := s.tasks ++
            [⟨some v.toNat, (s.envAt v.toNat).runningOn, .none, .fanOut M id.toNat⟩] })

/-- The reserved filter (45_sgi.md R234): one diagnostic with the value written, no injection, and the write is
`Handled`. -/
def Obligations.SgirReservedFilter : Prop :=
  ∀ (v : Byte) (val : Word) (s : State), s.Ready v.toNat →
    exec (.wrSgirRsvd v val) s =
      .next ({ s with history := s.history ++ [Event.diagBadFilter val] }.reply v.toNat .handled)

/-! ### Injection and the transitions -/

/-- Injecting a line that is linked anywhere marks it queued and re-raises it for the vCPU whose list holds it, even
when the target is offline, and changes nothing else (44_injection.md R211); injecting an unlinked line into an
offline vCPU changes nothing at all (R212). With bad operands (a terminated domain, a vCPU id not below `NVCPU`, a
vCPU not created, a line not below `NLINES`; R250, D40) the call is refused; that the refusal is an answer is log 5,
and that it covers a domain that is not live is log 12. -/
def Obligations.InjectCoalescesOrDrops : Prop :=
  ∀ (s : State) (v L : Nat) (cp : Option Nat), s.Sized →
    (s.LineReady v L →
      (∀ u, (s.desc v L).linked = some u → ∃ t, portStep (.inject v L cp) s = .next t ∧
        s.OnlyLine t v L v ∧ t.inflight v = s.inflight v ∧ t.desc v L = { s.desc v L with queued := true } ∧
        t.history = s.history ++ [.piReraise u L] ∧ t.tasks = s.tasks ∧ t.replies = s.replies) ∧
      ((s.desc v L).linked = none → (s.envAt v).online = false → portStep (.inject v L cp) s = .next s)) ∧
    (¬ s.LineReady v L → ∃ c, portStep (.inject v L cp) s = .refused (.port c))

/-- Injecting an unlinked line into an online vCPU (44_injection.md R213, R214): the priority of the line's rank is
snapshotted, the line is queued, neither visible nor active, raised if it is enabled, linked into that vCPU's list after
every entry of equal or lower priority value, and the notification is left to do. -/
def Obligations.InjectLinksInOrder : Prop :=
  ∀ (s : State) (v L : Nat) (cp : Option Nat), s.Inv → s.OrderOk → s.LineReady v L →
    (s.desc v L).linked = none → (s.envAt v).online = true →
    ∃ t pre post, portStep (.inject v L cp) s = .next t ∧
      s.OnlyLine t v L v ∧
      t.desc v L =
        { enabled := (s.desc v L).enabled, queued := true, visible := false, active := false,
          prio := (s.rankAt v (L / 32)).priority.getD (L % 32) 0#8, linked := some v } ∧
      s.inflight v = pre ++ post ∧ t.inflight v = pre ++ L :: post ∧
      (∀ x ∈ pre, (s.desc v x).prio ≤ (t.desc v L).prio) ∧
      (∀ x ∈ post, (t.desc v L).prio < (s.desc v x).prio) ∧
      t.history = s.history ++ (if (s.desc v L).enabled then [.piRaise v L (t.desc v L).prio] else []) ∧
      t.tasks = s.tasks ++ [⟨none, cp, .notify v, .nothing⟩] ∧ t.replies = s.replies

/-- The properties of `Insert` (44_injection.md R217): the elements keep their relative order, the new one comes after
every element of equal or lower priority value and before the others, and a sorted list stays sorted. R217 marks these
properties as derived from the definition of `Insert`: they are the spec's own inference. -/
def Obligations.InsertKeepsOrder : Prop :=
  ∀ (prio : Nat → Byte) (l : List Nat) (L : Nat),
    ∃ pre post, l = pre ++ post ∧ insertByPrio prio l L (prio L) = pre ++ L :: post ∧
      (∀ x ∈ pre, prio x ≤ prio L) ∧ (∀ x, post.head? = some x → prio L < prio x) ∧
      (l.Pairwise (fun x y => prio x ≤ prio y) →
        (∀ x ∈ post, prio L < prio x) ∧
        (insertByPrio prio l L (prio L)).Pairwise (fun x y => prio x ≤ prio y))

/-- Step 5 of an injection (44_injection.md R215, 70_reset_and_hazards.md R344): a vCPU that runs on another processor
than the caller's is notified, a blocked one is woken, as the environment stands when the step runs; no state of the
domain changes. -/
def Obligations.NotifyStep : Prop :=
  ∀ (s : State) (k v : Nat) (acc cp : Option Nat) (w : Work),
    s.tasks[k]? = some ⟨acc, cp, .notify v, w⟩ →
    ∃ t, advance k s = .next t ∧
      t = { s with history := t.history, tasks := t.tasks, replies := t.replies } ∧
      s.Leaves t k ⟨acc, cp, .none, w⟩ ∧
      ((∀ p, (s.envAt v).runningOn = some p → cp ≠ some p →
        t.history = s.history ++ [.notify p] ++ (if (s.envAt v).blocked then [.wake v] else [])) ∧
       ((s.envAt v).runningOn = none ∨ (s.envAt v).runningOn = cp →
        t.history = s.history ++ (if (s.envAt v).blocked then [.wake v] else [])))

/-- One enable step (43_enable_disable.md R190 to R193): the lowest line left is marked enabled and its backing physical
interrupt enabled; the event-channel line with an upcall pending and not linked is to be injected next; else a line that
is linked and not visible is re-raised for the vCPU whose list holds it. No list changes. -/
def Obligations.EnableStepEffect : Prop :=
  ∀ (s : State) (k v n i : Nat) (m : Word) (acc cp : Option Nat), s.Inv →
    s.tasks[k]? = some ⟨acc, cp, .none, .enable v m n⟩ →
    m.getLsbD i = true → (∀ j < i, m.getLsbD j = false) →
    ∃ t, advance k s = .next t ∧
      s.OnlyLine t v (32 * n + i) v ∧ t.inflight v = s.inflight v ∧
      t.desc v (32 * n + i) = { s.desc v (32 * n + i) with enabled := true } ∧
      ∃ phys, (phys = match s.cfg.backingOf (descKey v (32 * n + i)) with
          | some p => [.piEnablePhys p]
          | none => []) ∧
        (s.cfg.evtchnLine = some (32 * n + i) ∧ (s.envAt v).upcall = true ∧ (s.desc v (32 * n + i)).linked = none →
          t.history = s.history ++ phys ∧
          s.Leaves t k ⟨acc, cp, .link v (32 * n + i), .enable v (m &&& ~~~(BitVec.twoPow 32 i)) n⟩) ∧
        (¬ (s.cfg.evtchnLine = some (32 * n + i) ∧ (s.envAt v).upcall = true ∧
            (s.desc v (32 * n + i)).linked = none) →
          (∀ u, (s.desc v (32 * n + i)).linked = some u → (s.desc v (32 * n + i)).visible = false →
            t.history = s.history ++ phys ++ [.piReraise u (32 * n + i)]) ∧
          ((s.desc v (32 * n + i)).linked = none ∨ (s.desc v (32 * n + i)).visible = true →
            t.history = s.history ++ phys) ∧
          s.Leaves t k ⟨acc, cp, .none, .enable v (m &&& ~~~(BitVec.twoPow 32 i)) n⟩)

/-- One disable step (43_enable_disable.md R194, R195): the lowest line left is not enabled, not queued and in no list any
more, whatever vCPU's list held it and whether it was visible or active; the other entries keep their order. -/
def Obligations.DisableStepEffect : Prop :=
  ∀ (s : State) (k v n i : Nat) (m : Word) (acc cp : Option Nat), s.Inv →
    s.tasks[k]? = some ⟨acc, cp, .none, .disable v m n⟩ →
    m.getLsbD i = true → (∀ j < i, m.getLsbD j = false) →
    ∃ t h, advance k s = .next t ∧ (s.desc v (32 * n + i)).linked.getD v = h ∧
      s.OnlyLine t v (32 * n + i) h ∧ t.inflight h = (s.inflight h).filter (fun x => x ≠ 32 * n + i) ∧
      t.desc v (32 * n + i) =
        { s.desc v (32 * n + i) with enabled := false, queued := false, linked := none } ∧
      t.history = s.history ++ .piRemoveFromQueues h (32 * n + i) ::
        (match s.cfg.backingOf (descKey v (32 * n + i)) with
          | some p => [.piDisablePhys p]
          | none => []) ∧
      s.Leaves t k ⟨acc, cp, .none, .disable v (m &&& ~~~(BitVec.twoPow 32 i)) n⟩

/-- One target test of an SGI write (45_sgi.md R235): the lowest target left is skipped with a diagnostic when it is out
of range, not created or offline, and else its injection is to run next. -/
def Obligations.SgiTargetStep : Prop :=
  ∀ (s : State) (k id j : Nat) (m : Byte) (acc cp : Option Nat),
    s.tasks[k]? = some ⟨acc, cp, .none, .fanOut m id⟩ →
    m.getLsbD j = true → (∀ j' < j, m.getLsbD j' = false) →
    ∃ t, advance k s = .next t ∧
      t = { s with history := t.history, tasks := t.tasks, replies := t.replies } ∧
      (j < s.cfg.nvcpu ∧ (s.vcpuAt j).created = true ∧ (s.envAt j).online = true →
        t.history = s.history ∧ s.Leaves t k ⟨acc, cp, .link j id, .fanOut (m &&& ~~~(BitVec.twoPow 8 j)) id⟩) ∧
      (¬ (j < s.cfg.nvcpu ∧ (s.vcpuAt j).created = true ∧ (s.envAt j).online = true) →
        t.history = s.history ++ [.diagBadTarget j] ∧
        s.Leaves t k ⟨acc, cp, .none, .fanOut (m &&& ~~~(BitVec.twoPow 8 j)) id⟩)

/-- The injection an SGI target or a forced event-channel line is given is the one of the `Inject` port: the same domain
state and the same events, and step 5 follows in the same cases (45_sgi.md R236, 43_enable_disable.md R192). -/
def Obligations.OperationsRunTheInjectionEngine : Prop :=
  ∀ (s : State) (k v L : Nat) (acc cp : Option Nat) (w : Work),
    s.tasks[k]? = some ⟨acc, cp, .link v L, w⟩ → s.LineReady v L →
    ∃ t t', advance k s = .next t ∧ portStep (.inject v L cp) s = .next t' ∧
      t = { t' with tasks := t.tasks, replies := t.replies } ∧
      (t'.tasks = s.tasks ++ [⟨none, cp, .notify v, .nothing⟩] ∧ s.Leaves t k ⟨acc, cp, .notify v, w⟩ ∨
       t'.tasks = s.tasks ∧ s.Leaves t k ⟨acc, cp, .none, w⟩)

/-! ### Lifecycle, collaborator ports and environment -/

/-- What a new domain holds (46_ports_lifecycle.md R254, 70_reset_and_hazards.md R330, R333, R334): the controller
off, not terminated, every shared rank and shared descriptor zero, no vCPU, an empty history and the initial
environment. `State.reset` is such a domain, with the parameters of log 1. The clauses also say what the model chose:
the private rank and descriptors of a vCPU not yet created are zero (log 24), a look-up out of range gives zero or the
initial environment (log 14), and a domain is created only from the phase absent (log 12) and with parameters in the
ranges of R7 (log 18): any other `CreateDomain` is refused (log 5). -/
def Obligations.CreatedDomainValues : Prop :=
  (∀ (c : Config) (s : State),
    (s.phase = .absent ∧ c.valid = true →
      portStep (.createDomain c) s = .next { State.created c with inputs := s.inputs, refusals := s.refusals }) ∧
    (¬ (s.phase = .absent ∧ c.valid = true) → ∃ r, portStep (.createDomain c) s = .refused (.port r))) ∧
  State.reset = State.created Config.cfg0 ∧
  ∀ c : Config,
    (State.created c).phase = .live ∧ (State.created c).cfg = c ∧ (State.created c).ctlr = 0#1 ∧
    (State.created c).terminated = false ∧ (State.created c).history = [] ∧ (State.created c).tasks = [] ∧
    (∀ v r, (State.created c).rankAt v r =
      ⟨0#32, 0#32, 0#32, Vector.replicate 32 0#8, Vector.replicate 32 0#8, Vector.replicate 2 0#32,
        Vector.replicate 16 0#8⟩) ∧
    (∀ v L, (State.created c).desc v L = ⟨false, false, false, false, 0#8, none⟩) ∧
    ∀ v, (State.created c).inflight v = [] ∧ ((State.created c).vcpuAt v).created = false ∧
      (State.created c).envAt v = ⟨true, none, false, false⟩

/-- What `CreateVcpu` leaves (46_ports_lifecycle.md R255, 70_reset_and_hazards.md R331): the private rank zero but for
the target masks, which name the vCPU alone, zero descriptors, an empty list; nothing else changes and nothing is
emitted. So ITARGETSR words 0 to 7 of vCPU `v` hold `0x01010101 << v`. The mask `1 << v` is the spec's decision D34,
and the ITARGETSR words are marked in the spec as its own inference. A vCPU id not below `NVCPU`, a vCPU already
created and a terminated domain (R139) are refused; that the refusal is an answer is log 5, and that it covers a
domain that is not live is log 12. -/
def Obligations.CreateVcpuValues : Prop :=
  ∀ (s : State) (v : Nat), s.Sized →
    (s.phase = .live ∧ s.terminated = false ∧ v < s.cfg.nvcpu ∧ (s.vcpuAt v).created = false →
      ∃ t, portStep (.createVcpu v) s = .next t ∧ t = { s with vcpu := t.vcpu } ∧
        (∀ u, u ≠ v → t.vcpuAt u = s.vcpuAt u) ∧
        t.vcpuAt v =
          { prank := ⟨0#32, 0#32, 0#32, Vector.replicate 32 0#8, Vector.replicate 32 (1#8 <<< v),
              Vector.replicate 2 0#32, Vector.replicate 16 0#8⟩
            pdesc := Vector.replicate 32 ⟨false, false, false, false, 0#8, none⟩
            inflight := []
            created := true } ∧
        ∀ w < 8, pack (t.rankAt v 0).target w = (if v < 8 then 0x01010101#32 <<< v else 0#32)) ∧
    (¬ (s.phase = .live ∧ s.terminated = false ∧ v < s.cfg.nvcpu ∧ (s.vcpuAt v).created = false) →
      ∃ c, portStep (.createVcpu v) s = .refused (.port c))

/-- `DestroyVcpu` (46_ports_lifecycle.md R256, 70_reset_and_hazards.md R336): the shared lines of its list are
unlinked with `enabled` and `prio` kept, its own record is zero, nothing else changes and nothing is emitted. It is
refused while any operation is in progress, whether or not it names the vCPU (R336, D38; R256 is narrower, and that
both hold is the model's reading, log 16), and for a vCPU that does not exist or a terminated domain (R139). That a
refusal is an answer is log 5, and that it covers a domain that is not live is log 12. -/
def Obligations.DestroyVcpuReleases : Prop :=
  ∀ (s : State) (v : Nat), s.Sized →
    (s.phase = .live ∧ s.terminated = false ∧ v < s.cfg.nvcpu ∧ (s.vcpuAt v).created = true →
      (s.tasks ≠ [] → portStep (.destroyVcpu v) s = .refused (.port .inProgress)) ∧
      (s.tasks = [] →
        ∃ t, portStep (.destroyVcpu v) s = .next t ∧ t = { s with vcpu := t.vcpu, spi := t.spi } ∧
          (∀ u, u ≠ v → t.vcpuAt u = s.vcpuAt u) ∧
          t.vcpuAt v =
            { prank := ⟨0#32, 0#32, 0#32, Vector.replicate 32 0#8, Vector.replicate 32 0#8, Vector.replicate 2 0#32,
                Vector.replicate 16 0#8⟩
              pdesc := Vector.replicate 32 ⟨false, false, false, false, 0#8, none⟩
              inflight := []
              created := false } ∧
          ∀ u L, 32 ≤ L → L < s.cfg.nlines → t.desc u L =
            if L ∈ s.inflight v then
              { s.desc u L with linked := none, queued := false, visible := false, active := false }
            else s.desc u L)) ∧
    (¬ (s.phase = .live ∧ s.terminated = false ∧ v < s.cfg.nvcpu ∧ (s.vcpuAt v).created = true) →
      ∃ c, portStep (.destroyVcpu v) s = .refused (.port c))

/-- `DestroyDomain` (46_ports_lifecycle.md R257) ends the domain whether or not it is terminated, once no operation is
in progress; after it every operation on the domain is refused. The model's choices: it keeps what the domain held, a
second `CreateDomain` is refused too (log 12), environment moves are refused too (log 13), and a refusal is an answer
(log 5). -/
def Obligations.DestroyDomainEnds : Prop :=
  (∀ s : State, s.phase = .live →
    (s.tasks = [] → portStep .destroyDomain s = .next { s with phase := .destroyed }) ∧
    (s.tasks ≠ [] → portStep .destroyDomain s = .refused (.port .inProgress))) ∧
  ∀ s : State, s.phase = .destroyed →
    (∀ i, exec i s = .refused (.port .noDomain)) ∧ (∀ m, envStep m s = .refused (.port .noDomain)) ∧
    ∀ op, ∃ c, portStep op s = .refused (.port c)

/-- The collaborator ports (46_ports_lifecycle.md R251 to R253) write the bit they report, or take the line off the
list, when the line is in that vCPU's list, and nothing else; they are refused when it is not, and with bad operands
(a terminated domain, a vCPU id not below `NVCPU`, a vCPU not created, a line not below `NLINES`). That a refusal is
an answer is log 5, and that it covers a domain that is not live is log 12. -/
def Obligations.CollaboratorPorts : Prop :=
  ∀ (s : State) (u L : Nat), s.Inv →
    (s.LineReady u L ∧ (s.desc u L).linked = some u →
      (∀ b, ∃ t, portStep (.ciVisible u L b) s = .next t ∧ s.OnlyLine t u L u ∧ t.inflight u = s.inflight u ∧
        t.desc u L = { s.desc u L with visible := b } ∧
        t.history = s.history ∧ t.tasks = s.tasks ∧ t.replies = s.replies) ∧
      (∀ b, ∃ t, portStep (.ciActive u L b) s = .next t ∧ s.OnlyLine t u L u ∧ t.inflight u = s.inflight u ∧
        t.desc u L = { s.desc u L with active := b } ∧
        t.history = s.history ∧ t.tasks = s.tasks ∧ t.replies = s.replies) ∧
      ∃ t, portStep (.ciRetire u L) s = .next t ∧ s.OnlyLine t u L u ∧
        t.inflight u = (s.inflight u).filter (fun x => x ≠ L) ∧
        t.desc u L = { s.desc u L with linked := none, queued := false, visible := false, active := false } ∧
        t.history = s.history ∧ t.tasks = s.tasks ∧ t.replies = s.replies) ∧
    (s.LineReady u L ∧ (s.desc u L).linked ≠ some u → ∀ b,
      ∀ op ∈ [PortOp.ciVisible u L b, .ciActive u L b, .ciRetire u L], portStep op s = .refused (.port .notLinked)) ∧
    (¬ s.LineReady u L → ∀ b,
      ∀ op ∈ [PortOp.ciVisible u L b, .ciActive u L b, .ciRetire u L], ∃ c, portStep op s = .refused (.port c))

/-- An environment move sets its one input of its one vCPU (46_ports_lifecycle.md R258); a processor outside `PROC` is
refused (log 13). -/
def Obligations.EnvironmentMoves : Prop :=
  ∀ (s : State) (v : Nat) (b : Bool) (p : Option Nat), s.Sized → s.phase = .live → v < s.cfg.nvcpu →
    (∀ (m : EnvMove) (e : VcpuEnv),
      (m, e) ∈ [(EnvMove.online v b, { s.envAt v with online := b }),
        (.blocked v b, { s.envAt v with blocked := b }), (.upcall v b, { s.envAt v with upcall := b })] ∨
      ((m, e) = (.running v p, { s.envAt v with runningOn := p }) ∧ ∀ q ∈ p, q ∈ s.cfg.proc) →
      ∃ t, envStep m s = .next t ∧ t = { s with env := t.env } ∧ t.envAt v = e ∧
        ∀ u, u ≠ v → t.envAt u = s.envAt u) ∧
    (∀ q ∈ p, q ∉ s.cfg.proc → envStep (.running v p) s = .refused (.port .badEnvironment))

/-- A terminated domain (41_mmio_dispatch.md R139): no access and no port operation but `DestroyDomain`
(46_ports_lifecycle.md R257) has a step, and no step of the machine changes its registers, descriptors, lists or
history. The model's readings: environment moves are still served and change the environment inputs only (log 13),
`DestroyDomain` is accepted at once because the operations that were in progress are dropped (log 10), and a refusal
is an answer (log 5). -/
def Obligations.TerminatedDomainIsFrozen : Prop :=
  ∀ s : State, s.Inv → s.phase = .live → s.terminated = true →
    (∀ i, exec i s = .refused (.port .terminated)) ∧
    (∀ op, op ≠ .destroyDomain → ∃ c, portStep op s = .refused (.port c)) ∧
    (∃ t, portStep .destroyDomain s = .next t ∧ t.phase = .destroyed) ∧
    (∀ m t, envStep m s = .next t → t = { s with env := t.env }) ∧
    ∀ t, step s = .next t → t.terminated = true ∧ t.ctlr = s.ctlr ∧ t.shared = s.shared ∧ t.spi = s.spi ∧
      t.vcpu = s.vcpu ∧ t.history = s.history ∧ t.replies = s.replies

/-! ### The whole machine -/

/-- The event history is append-only (10_state.md R34), no step emits `PI_ClearAll` (46_ports_lifecycle.md R259), and
the parameters never change (00_scope.md R7). That outcomes are recorded in order is log 11. R259 is marked in the
spec as its own inference. -/
def Obligations.HistoryAppendOnly : Prop :=
  ∀ s t : State, s.phase ≠ .absent → step s = .next t →
    (∃ es, t.history = s.history ++ es ∧ ∀ v, .piClearAll v ∉ es) ∧ (∃ rs, t.replies = s.replies ++ rs) ∧
    t.cfg = s.cfg

/-- The controller enable bit gates nothing (10_state.md R31): a step that serves no CTLR access and creates no domain
neither writes it nor reads it. -/
def Obligations.ControllerGatesNothing : Prop :=
  ∀ (s t : State) (c : BitVec 1),
    (∀ bs rest i, s.inputs = .access bs :: rest → decode bs = .ok i → i.group ≠ .ctlr) →
    (∀ d rest, s.inputs ≠ .port (.createDomain d) :: rest) →
    step s = .next t →
    t.ctlr = s.ctlr ∧ step { s with ctlr := c } = .next { t with ctlr := c }

/-- `visible` and `active` are set by the collaborator only (10_state.md R25, R40). -/
def Obligations.CollaboratorOwnsVisibleAndActive : Prop :=
  ∀ (s t : State) (v L : Nat), step s = .next t →
    ((s.desc v L).visible = false → (t.desc v L).visible = true →
      ∃ u rest, s.inputs = .port (.ciVisible u L true) :: rest) ∧
    ((s.desc v L).active = false → (t.desc v L).active = true →
      ∃ u rest, s.inputs = .port (.ciActive u L true) :: rest)

/-- The priority snapshot of a line that stays linked does not change, whatever is written to the priority registers
(70_reset_and_hazards.md R350). -/
def Obligations.PriorityFixedWhileLinked : Prop :=
  ∀ (s t : State) (v L u u' : Nat), step s = .next t →
    (s.desc v L).linked = some u → (t.desc v L).linked = some u' → (t.desc v L).prio = (s.desc v L).prio

/-- A domain right after its creation meets the invariants, whatever its legal parameters; so does the machine after
reset. That the record of a vCPU not yet created is zero, which two of them say, is the model's choice (log 24). R28,
R29, R38 and R39 carry the spec's own inferences. -/
def Obligations.CreatedDomainMeetsInvariants : Prop :=
  (∀ c : Config, c.valid = true →
    (State.created c).Inv ∧ (State.created c).OrderOk ∧ (State.created c).RegistersOk) ∧
  State.reset.Inv ∧ State.reset.OrderOk ∧ State.reset.RegistersOk

/-- Every step keeps the structural invariant: the linkage invariant (10_state.md R28), sound operations in progress
(R41, 46_ports_lifecycle.md R261), none in a terminated domain (41_mmio_dispatch.md R139), and zero records of vCPUs
that do not exist (R256 after a teardown; before the first creation the model's choice, log 24). That every rule keeps
R28 is marked in the spec as its own inference. -/
def Obligations.StepKeepsInv : Prop := ∀ s t : State, s.Inv → step s = .next t → t.Inv

/-- Every step keeps the ordering invariant (10_state.md R29). That the lists stay sorted is marked in the spec as its
own inference. -/
def Obligations.StepKeepsOrder : Prop :=
  ∀ s t : State, s.Inv → s.OrderOk → step s = .next t → t.OrderOk

/-- Every step keeps the register invariants: pending, active and SGI source fields stay zero (10_state.md R38),
fields of invalid lines stay zero (R39), private target masks name their vCPU alone (R23), and private config words
stay zero (42_mmio_line_registers.md R168). R38 and R39 are marked in the spec as its own inference, and that the
private rank of a vCPU not yet created holds zero in the quiet and config fields is the model's choice (log 24). -/
def Obligations.StepKeepsRegisters : Prop :=
  ∀ s t : State, s.Inv → s.RegistersOk → step s = .next t → t.RegistersOk

/-- Every operation finishes after a bounded number of its own steps (70_reset_and_hazards.md R346). Per operation:
the k-th operation in progress can always make its next step, which lowers its own bound and keeps its place, or
completes it, and leaves every other operation as it was. An access leaves at most 34, 32, 24 or 0 steps after its
first (or is Fatal, which drops the operations in progress, log 10), an `Inject` call at most one, and no access, port
call or environment move changes another operation otherwise. The bounds of R346 are marked in the spec as its own
inference from R340. The last two clauses are about all operations together: each step of one lowers the sum of the
bounds, and with no further input the machine finishes all of them within that sum. That last one rests on the model's
schedule, in which an empty stream lets the oldest operation go on (log 3, 4). -/
def Obligations.OperationsAreBounded : Prop :=
  ∀ s : State, s.Inv →
    (∀ k x, s.tasks[k]? = some x → ∃ t, advance k s = .next t ∧ t.cfg = s.cfg ∧
      ((∃ y : Task, t.tasks = s.tasks.set k y ∧ y.accessor = x.accessor ∧ y.bound s.cfg < x.bound s.cfg) ∨
       t.tasks = s.tasks.eraseIdx k)) ∧
    (∀ i t, exec i s = .next t →
      t.tasks = s.tasks ∨ (t.tasks = [] ∧ t = s.fatal i.accessor.toNat) ∨
      ∃ y : Task, t.tasks = s.tasks ++ [y] ∧ y.accessor = some i.accessor.toNat ∧
        y.bound s.cfg ≤ i.group.laterSteps) ∧
    (∀ op t, portStep op s = .next t →
      t.tasks = s.tasks ∨
      ∃ (v L : Nat) (cp : Option Nat) (y : Task), op = .inject v L cp ∧ t.tasks = s.tasks ++ [y] ∧
        y.accessor = none ∧ y.bound s.cfg ≤ 1) ∧
    (∀ m t, envStep m s = .next t → t.tasks = s.tasks) ∧
    (∀ k t, advance k s = .next t → t.bound < s.bound) ∧
    (s.inputs = [] → ∃ t : State, core.run s.bound s = .next t ∧ t.tasks = [])

/-- The enable window (70_reset_and_hazards.md R348), whatever else is in progress: a line whose bit an enable
transition still has to serve is injected into a created, online vCPU `u` (the accessor itself for a private line). It
is linked into `u`'s list with no `PI_Raise`, and the transition is not disturbed; when the line is the next one, the
enable step then re-raises it for `u`. R348 is marked in the spec as its own inference. -/
def Obligations.EnableWindow : Prop :=
  ∀ (s : State) (v u n i k : Nat) (m : Word) (cp cp' : Option Nat), s.Inv →
    s.tasks[k]? = some ⟨some v, cp, .none, .enable v m n⟩ → m.getLsbD i = true →
    u < s.cfg.nvcpu → (s.vcpuAt u).created = true → (s.envAt u).online = true → (32 * n + i < 32 → u = v) →
    (s.desc v (32 * n + i)).enabled = false → (s.desc v (32 * n + i)).linked = none →
    ∃ t, portStep (.inject u (32 * n + i) cp') s = .next t ∧ t.history = s.history ∧
      (t.desc v (32 * n + i)).linked = some u ∧ t.tasks[k]? = some ⟨some v, cp, .none, .enable v m n⟩ ∧
      ((∀ j < i, m.getLsbD j = false) → ∃ t', advance k t = .next t' ∧
        (t'.desc v (32 * n + i)).enabled = true ∧ (t'.desc v (32 * n + i)).linked = some u ∧
        t'.history = s.history ++
          (match s.cfg.backingOf (descKey v (32 * n + i)) with | some p => [.piEnablePhys p] | none => []) ++
          [.piReraise u (32 * n + i)])

/-- Racing enable and disable of one shared line (70_reset_and_hazards.md R349): the rank phases in one order and the
per-line steps in the other leave the enable bit clear in the rank and the descriptor enabled. R349 is marked in the
spec as its own inference from R343. -/
def Obligations.RacingEnableAndDisable : Prop :=
  ∀ (s : State) (v u : Byte) (n : BitVec 5) (i : Nat), s.Inv → s.tasks = [] → v ≠ u → s.Ready v.toNat →
    s.Ready u.toNat → 1 ≤ n.toNat → i < 32 → 32 * n.toNat + i < s.cfg.nlines →
    (s.rankAt v.toNat n.toNat).enable.getLsbD i = false →
    ∃ t₁ t₂ t₃ t₄,
      exec (.wrIsenabler n ⟨v, .word, 0#2, BitVec.twoPow 32 i⟩) s = .next t₁ ∧
      exec (.wrIcenabler n ⟨u, .word, 0#2, BitVec.twoPow 32 i⟩) t₁ = .next t₂ ∧
      advance 1 t₂ = .next t₃ ∧ advance 0 t₃ = .next t₄ ∧
      (t₄.rankAt v.toNat n.toNat).enable.getLsbD i = false ∧
      (t₄.desc v.toNat (32 * n.toNat + i)).enabled = true ∧
      ∀ p, s.cfg.backingOf (.shared (32 * n.toNat + i)) = some p → ∃ es, t₄.history = es ++ [.piEnablePhys p]
end

