-- ==== Sys2Proof/Laws/Operands.lean ====
section
/-! SUPPORT. What the pure helpers compute, bit by bit: masks, lanes, stored bytes and config words, the lowest set bit,
ordered insertion. Later proofs cite these and do not unfold the helpers. -/

namespace Sys2Proof.Machine

/-! ### Masks -/

theorem orOver_getLsbD {w : Nat} (f : Nat → BitVec w) (k i : Nat) :
    (orOver f k).getLsbD i = (List.range k).any (fun j => (f j).getLsbD i) := by
  induction k with
  | zero => simp [orOver]
  | succ k ih => simp [orOver, List.range_succ, ih]

/-- Bit `i` of `VM1(r)`: line `32r + i` is a line of the domain (40_rank_store.md R104). -/
theorem validMask_getLsbD (c : Config) (r i : Nat) (hi : i < 32) :
    (validMask c r).getLsbD i = decide (32 * r + i < c.nlines) := by
  simp only [validMask]
  split
  · subst_vars
    have h : 32 * 0 + i < c.nlines := by simp only [Config.nlines]; omega
    rw [decide_eq_true h, BitVec.getLsbD_allOnes]
    exact decide_eq_true hi
  · rw [orOver_getLsbD, Bool.eq_iff_iff, List.any_eq_true]
    constructor
    · rintro ⟨j, hj, h⟩
      split at h
      · simp only [BitVec.getLsbD_shiftLeft, BitVec.getLsbD_one] at h
        have : i = j := by simp at h; omega
        subst this; simpa
      · simp at h
    · intro h
      refine ⟨i, by simpa using hi, ?_⟩
      simp only [decide_eq_true_eq] at h
      simp [h, hi]

theorem validMask_getLsbD_ge (c : Config) (r i : Nat) (hi : 32 ≤ i) : (validMask c r).getLsbD i = false :=
  BitVec.getLsbD_of_ge _ _ hi

theorem three_getLsbD (k : Nat) : (3#32).getLsbD k = decide (k < 2) := by
  by_cases h : k < 2
  · have : k = 0 ∨ k = 1 := by omega
    rcases this with rfl | rfl <;> decide
  · have h2 : (3#32).getLsbD k = false := by
      simp only [BitVec.getLsbD, BitVec.toNat_ofNat]
      apply Nat.testBit_lt_two_pow
      calc 3 % 2 ^ 32 < 2 ^ 2 := by decide
        _ ≤ 2 ^ k := Nat.pow_le_pow_right (by decide) (by omega)
    simp [h2, h]

/-- Bit `i` of `mask2(r, w)`: the line of its 2-bit field is a line of the domain (R104). -/
theorem mask2_getLsbD (c : Config) (r w i : Nat) (hw : w < 2) (hi : i < 32) :
    (mask2 c r w).getLsbD i = decide (32 * r + 16 * w + i / 2 < c.nlines) := by
  simp only [mask2]
  rw [orOver_getLsbD, Bool.eq_iff_iff, List.any_eq_true]
  constructor
  · rintro ⟨j, hj, h⟩
    simp only [List.mem_range] at hj
    rw [validMask_getLsbD c r _ (by omega)] at h
    split at h
    · rename_i hv
      simp only [BitVec.getLsbD_shiftLeft, three_getLsbD, decide_eq_true_eq] at h hv
      have : i / 2 = j := by simp at h; omega
      subst this; simp only [decide_eq_true_eq]; omega
    · simp at h
  · intro h
    simp only [decide_eq_true_eq] at h
    refine ⟨i / 2, by simp only [List.mem_range]; omega, ?_⟩
    rw [validMask_getLsbD c r _ (by omega)]
    have : 32 * r + (16 * w + i / 2) < c.nlines := by omega
    simp only [this, decide_true, if_true, BitVec.getLsbD_shiftLeft, three_getLsbD]
    simp [hi]; omega

/-- `laneok(r, w, k)`: line `32r + 4w + k` is a line of the domain (R104). -/
theorem laneOk_eq (c : Config) (r w k : Nat) (h : 4 * w + k < 32) :
    laneOk c r w k = decide (32 * r + 4 * w + k < c.nlines) := by
  simp only [laneOk, validMask_getLsbD c r _ h, Nat.add_assoc]

/-! ### Lanes -/

theorem lane_getLsbD (x : Word) (k j : Nat) : (lane x k).getLsbD j = (decide (j < 8) && x.getLsbD (8 * k + j)) := by
  simp [lane, BitVec.getLsbD_extractLsb']

theorem append4_getLsbD (a b c d : Byte) (j : Nat) :
    BitVec.getLsbD (w := 8 + 8 + 8 + 8) (a ++ b ++ c ++ d) j =
      if j < 8 then d.getLsbD j else if j < 16 then c.getLsbD (j - 8)
      else if j < 24 then b.getLsbD (j - 16) else a.getLsbD (j - 24) := by
  simp only [BitVec.getLsbD_append]
  by_cases h0 : j < 8
  · simp [h0]
  · by_cases h1 : j < 16
    · simp [h0, h1, show j - 8 < 8 by omega]
    · by_cases h2 : j < 24
      · simp [h0, h1, h2, show ¬ j - 8 < 8 by omega, show j - 8 - 8 = j - 16 by omega,
          show j - 16 < 8 by omega]
      · simp [h0, h1, h2, show ¬ j - 8 < 8 by omega, show ¬ j - 8 - 8 < 8 by omega,
          show j - 8 - 8 - 8 = j - 24 by omega]

/-- Lane `k` of a packed word is byte `4w + k` of the array (R107). -/
theorem pack_lane {n : Nat} (a : Vector Byte n) (w k : Nat) (hk : k < 4) :
    lane (pack a w) k = a.getD (4 * w + k) 0#8 := by
  apply BitVec.eq_of_getLsbD_eq
  intro j hj
  rw [lane_getLsbD]
  have e : (pack a w).getLsbD (8 * k + j) = _ := append4_getLsbD _ _ _ _ _
  rw [e, decide_eq_true hj, Bool.true_and]
  have h : k = 0 ∨ k = 1 ∨ k = 2 ∨ k = 3 := by omega
  rcases h with rfl | rfl | rfl | rfl
  · simp [hj]
  · rw [if_neg (by omega), if_pos (by omega)]; congr 1; omega
  · rw [if_neg (by omega), if_neg (by omega), if_pos (by omega)]; congr 1; omega
  · rw [if_neg (by omega), if_neg (by omega), if_neg (by omega)]; congr 1; omega

/-- A word is determined by its four lanes. -/
theorem eq_of_lanes {x y : Word} (h : ∀ k < 4, lane x k = lane y k) : x = y := by
  apply BitVec.eq_of_getLsbD_eq
  intro i hi
  have h1 := congrArg (fun b : Byte => b.getLsbD (i % 8)) (h (i / 8) (by omega))
  simp only [lane_getLsbD] at h1
  have h2 : i % 8 < 8 := by omega
  have h3 : 8 * (i / 8) + i % 8 = i := by omega
  simpa [h2, h3] using h1

/-! ### Stored bytes and config words -/

theorem getD_setIfInBounds {α : Type} {n : Nat} (a : Vector α n) (i j : Nat) (x d : α) :
    (a.setIfInBounds i x).getD j d = if i = j ∧ j < n then x else a.getD j d := by
  simp only [Vector.getD]
  by_cases hj : j < n <;> by_cases hij : i = j <;> simp [hj, hij]

theorem storeLane_getD (c : Config) (r w : Nat) (a : Vector Byte 32) (k : Nat) (y : Byte) (hw : w < 8) (hk : k < 4)
    (j : Nat) :
    (storeLane c r w a k y).getD j 0#8 =
      if j = 4 * w + k ∧ 32 * r + j < c.nlines then y else a.getD j 0#8 := by
  simp only [storeLane, laneOk_eq c r w k (by omega), decide_eq_true_eq]
  by_cases h : 32 * r + 4 * w + k < c.nlines
  · rw [if_pos h, getD_setIfInBounds]
    by_cases hj : j = 4 * w + k
    · subst hj; rw [if_pos ⟨rfl, by omega⟩, if_pos ⟨rfl, by omega⟩]
    · rw [if_neg (by omega), if_neg (by omega)]
  · rw [if_neg h, if_neg (by omega)]

/-- Byte `j` of the array after a write to 8-bit word `w` of rank `r` (R107, 42_mmio_line_registers.md R163): stored when
the byte is written and its line is valid, else as before. -/
theorem storeBytes_getD (c : Config) (r w : Nat) (a : Vector Byte 32) (x : WriteArgs) (hw : w < 8) (j : Nat) :
    (storeBytes c r w a x).getD j 0#8 =
      if j / 4 = w ∧ 32 * r + j < c.nlines ∧ (x.sz ≠ .word → j % 4 = x.lane.toNat) then
        (if x.sz = .word then lane x.val (j % 4) else x.val.setWidth 8)
      else a.getD j 0#8 := by
  simp only [storeBytes]
  by_cases hs : x.sz = .word
  · simp only [hs, if_true, ne_eq, not_true_eq_false, false_implies, and_true]
    simp only [storeLane_getD c r w _ _ _ hw (show (0:Nat) < 4 by omega),
      storeLane_getD c r w _ _ _ hw (show (1:Nat) < 4 by omega),
      storeLane_getD c r w _ _ _ hw (show (2:Nat) < 4 by omega),
      storeLane_getD c r w _ _ _ hw (show (3:Nat) < 4 by omega)]
    by_cases hv : 32 * r + j < c.nlines
    · by_cases hj : j / 4 = w
      · have h : j % 4 = 0 ∨ j % 4 = 1 ∨ j % 4 = 2 ∨ j % 4 = 3 := by omega
        rcases h with h | h | h | h <;> simp only [hv, hj, h, and_true, and_self, if_true] <;>
          simp (disch := omega) only [if_neg, if_pos]
      · simp (disch := omega) only [if_neg]
    · simp [hv]
  · have hl : x.lane.toNat < 4 := x.lane.isLt
    simp only [hs, if_false, ne_eq, not_false_eq_true, true_implies]
    rw [storeLane_getD c r w _ _ _ hw hl]
    by_cases h : j = 4 * w + x.lane.toNat ∧ 32 * r + j < c.nlines
    · rw [if_pos h, if_pos ⟨by omega, h.2, by omega⟩]
    · rw [if_neg h, if_neg (by omega)]

/-- Bit `i` of config word `u` after a write to config word `w` of rank `r` (R110). -/
theorem storeConfig_getLsbD (c : Config) (r w : Nat) (a : Vector Word 2) (val : Word) (hw : w < 2) (u i : Nat)
    (hu : u < 2) (hi : i < 32) :
    ((storeConfig c r w a val).getD u 0#32).getLsbD i =
      if u = w ∧ 32 * r + 16 * w + i / 2 < c.nlines then val.getLsbD i else (a.getD u 0#32).getLsbD i := by
  simp only [storeConfig, getD_setIfInBounds]
  by_cases h : w = u
  · subst h
    simp only [hu, and_self, if_true, BitVec.getLsbD_or, BitVec.getLsbD_and, BitVec.getLsbD_not,
      mask2_getLsbD c r w i hw hi, hi, decide_true, Bool.true_and, true_and]
    by_cases hv : 32 * r + 16 * w + i / 2 < c.nlines <;> simp [hv]
  · have h' : ¬ u = w := fun e => h e.symm
    simp [h, h']

/-! ### Bit iteration -/

/-- The lowest set bit is set, and no lower one is (00_scope.md R11). -/
theorem lowestBit_eq_some {w : Nat} (m : BitVec w) (i : Nat) :
    lowestBit m = some i ↔ m.getLsbD i = true ∧ ∀ j < i, m.getLsbD j = false := by
  simp only [lowestBit, List.find?_range_eq_some]
  constructor
  · rintro ⟨h, _, h'⟩; exact ⟨h, fun j hj => by simpa using h' j hj⟩
  · rintro ⟨h, h'⟩
    refine ⟨h, List.mem_range.2 ?_, fun j hj => by simp [h' j hj]⟩
    exact BitVec.lt_of_getLsbD h

theorem lowestBit_eq_none {w : Nat} (m : BitVec w) : lowestBit m = none ↔ m = 0#w := by
  simp only [lowestBit, List.find?_eq_none, List.mem_range, Bool.not_eq_true]
  constructor
  · intro h; apply BitVec.eq_of_getLsbD_eq; intro i hi; simp [h i hi]
  · rintro rfl i _; simp

theorem clearBit_getLsbD {w : Nat} (m : BitVec w) (i j : Nat) :
    (clearBit m i).getLsbD j = (m.getLsbD j && decide (j ≠ i)) := by
  by_cases hj : j < w
  · by_cases h : j = i
    · subst h; simp [clearBit, hj]
    · have : ¬ (j - i = 0 ∧ i ≤ j) := by omega
      simp only [clearBit, BitVec.getLsbD_and, BitVec.getLsbD_not, BitVec.getLsbD_shiftLeft, BitVec.getLsbD_one, hj]
      by_cases h1 : j < i
      · simp [h1, h]
      · have : j - i ≠ 0 := by omega
        simp [h1, h, this]
  · have := BitVec.getLsbD_of_ge m j (by omega)
    simp [clearBit, this]

/-- Clearing a set bit takes one from the count. -/
theorem bitCount_clearBit {w : Nat} (m : BitVec w) (i : Nat) (h : m.getLsbD i = true) :
    bitCount (clearBit m i) + 1 = bitCount m := by
  have hi : i < w := BitVec.lt_of_getLsbD h
  have key : ∀ k, ((List.range k).filter (fun j => (clearBit m i).getLsbD j)).length + (if i < k then 1 else 0) =
      ((List.range k).filter (fun j => m.getLsbD j)).length := by
    intro k
    induction k with
    | zero => simp
    | succ k ih =>
      simp only [List.range_succ, List.filter_append, List.length_append]
      by_cases hk : k = i
      · subst hk
        simp [clearBit_getLsbD, h] at ih ⊢
        simpa [clearBit_getLsbD] using ih
      · have e : (clearBit m i).getLsbD k = m.getLsbD k := by simp [clearBit_getLsbD, hk]
        simp only [List.filter_cons, e, List.filter_nil]
        have : (i < k + 1) = (i < k) := by simp; omega
        simp only [this]; omega
  have := key w
  simpa [bitCount, hi] using this

theorem bitCount_le {w : Nat} (m : BitVec w) : bitCount m ≤ w := by
  simpa [bitCount] using List.length_filter_le (fun i => m.getLsbD i) (List.range w)

/-! ### Ordered insertion -/

/-- Ordered insertion splits the list: every element before the new one has an equal or lower priority value, and the
first one after it a greater one (44_injection.md R217). -/
theorem insertByPrio_split (prio : Nat → Byte) (l : List Nat) (L : Nat) (p : Byte) :
    ∃ pre post, l = pre ++ post ∧ insertByPrio prio l L p = pre ++ L :: post ∧
      (∀ x ∈ pre, ¬ p < prio x) ∧ ∀ x, post.head? = some x → p < prio x := by
  induction l with
  | nil => exact ⟨[], [], rfl, rfl, by simp, by simp⟩
  | cons y l ih =>
    by_cases h : p < prio y
    · exact ⟨[], y :: l, rfl, by simp [insertByPrio, h], by simp, by simpa using h⟩
    · obtain ⟨pre, post, rfl, h2, h3, h4⟩ := ih
      refine ⟨y :: pre, post, rfl, by simp [insertByPrio, h, h2], ?_, h4⟩
      intro x hx
      rcases List.mem_cons.1 hx with rfl | hx
      · exact h
      · exact h3 x hx

theorem insertByPrio_perm (prio : Nat → Byte) (l : List Nat) (L : Nat) (p : Byte) :
    (insertByPrio prio l L p).Perm (L :: l) := by
  obtain ⟨pre, post, rfl, h, _⟩ := insertByPrio_split prio l L p
  rw [h]; exact List.perm_middle

@[simp] theorem mem_insertByPrio (prio : Nat → Byte) (l : List Nat) (L : Nat) (p : Byte) (x : Nat) :
    x ∈ insertByPrio prio l L p ↔ x = L ∨ x ∈ l := by
  rw [(insertByPrio_perm prio l L p).mem_iff]; simp

/-- The insertion reads the priorities of the list's own elements only. -/
theorem insertByPrio_congr {prio prio' : Nat → Byte} (l : List Nat) (L : Nat) (p : Byte)
    (h : ∀ x ∈ l, prio x = prio' x) : insertByPrio prio l L p = insertByPrio prio' l L p := by
  induction l with
  | nil => rfl
  | cons y l ih =>
    simp only [insertByPrio, h y (by simp)]
    rw [ih (fun x hx => h x (by simp [hx]))]

end Sys2Proof.Machine
end

