-- ==== Sys2Proof/Laws/State.lean ====
section
/-! SUPPORT. One lemma per field per update of the state, true by rfl, and the reads after each write of a rank, a
descriptor, an inflight list: no later proof unfolds a record update. -/

namespace Sys2Proof.Machine

/-! ### `setVcpu` -/

@[simp] theorem State.setVcpu_phase (s : State) (v : Nat) (x : VcpuState) : (s.setVcpu v x).phase = s.phase := rfl
@[simp] theorem State.setVcpu_cfg (s : State) (v : Nat) (x : VcpuState) : (s.setVcpu v x).cfg = s.cfg := rfl
@[simp] theorem State.setVcpu_ctlr (s : State) (v : Nat) (x : VcpuState) : (s.setVcpu v x).ctlr = s.ctlr := rfl
@[simp] theorem State.setVcpu_terminated (s : State) (v : Nat) (x : VcpuState) : (s.setVcpu v x).terminated = s.terminated := rfl
@[simp] theorem State.setVcpu_shared (s : State) (v : Nat) (x : VcpuState) : (s.setVcpu v x).shared = s.shared := rfl
@[simp] theorem State.setVcpu_spi (s : State) (v : Nat) (x : VcpuState) : (s.setVcpu v x).spi = s.spi := rfl
@[simp] theorem State.setVcpu_vcpu (s : State) (v : Nat) (x : VcpuState) : (s.setVcpu v x).vcpu = s.vcpu.set v x := rfl
@[simp] theorem State.setVcpu_env (s : State) (v : Nat) (x : VcpuState) : (s.setVcpu v x).env = s.env := rfl
@[simp] theorem State.setVcpu_history (s : State) (v : Nat) (x : VcpuState) : (s.setVcpu v x).history = s.history := rfl
@[simp] theorem State.setVcpu_tasks (s : State) (v : Nat) (x : VcpuState) : (s.setVcpu v x).tasks = s.tasks := rfl
@[simp] theorem State.setVcpu_replies (s : State) (v : Nat) (x : VcpuState) : (s.setVcpu v x).replies = s.replies := rfl
@[simp] theorem State.setVcpu_refusals (s : State) (v : Nat) (x : VcpuState) : (s.setVcpu v x).refusals = s.refusals := rfl
@[simp] theorem State.setVcpu_draws (s : State) (v : Nat) (x : VcpuState) : (s.setVcpu v x).draws = s.draws := rfl
@[simp] theorem State.setVcpu_inputs (s : State) (v : Nat) (x : VcpuState) : (s.setVcpu v x).inputs = s.inputs := rfl

/-! ### `setRank` -/

@[simp] theorem State.setRank_phase (s : State) (v r : Nat) (R : Rank) : (s.setRank v r R).phase = s.phase := rfl
@[simp] theorem State.setRank_cfg (s : State) (v r : Nat) (R : Rank) : (s.setRank v r R).cfg = s.cfg := rfl
@[simp] theorem State.setRank_ctlr (s : State) (v r : Nat) (R : Rank) : (s.setRank v r R).ctlr = s.ctlr := rfl
@[simp] theorem State.setRank_terminated (s : State) (v r : Nat) (R : Rank) : (s.setRank v r R).terminated = s.terminated := rfl
@[simp] theorem State.setRank_spi (s : State) (v r : Nat) (R : Rank) : (s.setRank v r R).spi = s.spi := rfl
@[simp] theorem State.setRank_env (s : State) (v r : Nat) (R : Rank) : (s.setRank v r R).env = s.env := rfl
@[simp] theorem State.setRank_history (s : State) (v r : Nat) (R : Rank) : (s.setRank v r R).history = s.history := rfl
@[simp] theorem State.setRank_tasks (s : State) (v r : Nat) (R : Rank) : (s.setRank v r R).tasks = s.tasks := rfl
@[simp] theorem State.setRank_replies (s : State) (v r : Nat) (R : Rank) : (s.setRank v r R).replies = s.replies := rfl
@[simp] theorem State.setRank_refusals (s : State) (v r : Nat) (R : Rank) : (s.setRank v r R).refusals = s.refusals := rfl
@[simp] theorem State.setRank_draws (s : State) (v r : Nat) (R : Rank) : (s.setRank v r R).draws = s.draws := rfl
@[simp] theorem State.setRank_inputs (s : State) (v r : Nat) (R : Rank) : (s.setRank v r R).inputs = s.inputs := rfl

/-! ### `setDesc` -/

@[simp] theorem State.setDesc_phase (s : State) (v L : Nat) (d : Descriptor) : (s.setDesc v L d).phase = s.phase := rfl
@[simp] theorem State.setDesc_cfg (s : State) (v L : Nat) (d : Descriptor) : (s.setDesc v L d).cfg = s.cfg := rfl
@[simp] theorem State.setDesc_ctlr (s : State) (v L : Nat) (d : Descriptor) : (s.setDesc v L d).ctlr = s.ctlr := rfl
@[simp] theorem State.setDesc_terminated (s : State) (v L : Nat) (d : Descriptor) : (s.setDesc v L d).terminated = s.terminated := rfl
@[simp] theorem State.setDesc_sharedRanks (s : State) (v L : Nat) (d : Descriptor) : (s.setDesc v L d).shared = s.shared := rfl
@[simp] theorem State.setDesc_env (s : State) (v L : Nat) (d : Descriptor) : (s.setDesc v L d).env = s.env := rfl
@[simp] theorem State.setDesc_history (s : State) (v L : Nat) (d : Descriptor) : (s.setDesc v L d).history = s.history := rfl
@[simp] theorem State.setDesc_tasks (s : State) (v L : Nat) (d : Descriptor) : (s.setDesc v L d).tasks = s.tasks := rfl
@[simp] theorem State.setDesc_replies (s : State) (v L : Nat) (d : Descriptor) : (s.setDesc v L d).replies = s.replies := rfl
@[simp] theorem State.setDesc_refusals (s : State) (v L : Nat) (d : Descriptor) : (s.setDesc v L d).refusals = s.refusals := rfl
@[simp] theorem State.setDesc_draws (s : State) (v L : Nat) (d : Descriptor) : (s.setDesc v L d).draws = s.draws := rfl
@[simp] theorem State.setDesc_inputs (s : State) (v L : Nat) (d : Descriptor) : (s.setDesc v L d).inputs = s.inputs := rfl

/-! ### `setInflight` -/

@[simp] theorem State.setInflight_phase (s : State) (v : Nat) (l : List Nat) : (s.setInflight v l).phase = s.phase := rfl
@[simp] theorem State.setInflight_cfg (s : State) (v : Nat) (l : List Nat) : (s.setInflight v l).cfg = s.cfg := rfl
@[simp] theorem State.setInflight_ctlr (s : State) (v : Nat) (l : List Nat) : (s.setInflight v l).ctlr = s.ctlr := rfl
@[simp] theorem State.setInflight_terminated (s : State) (v : Nat) (l : List Nat) : (s.setInflight v l).terminated = s.terminated := rfl
@[simp] theorem State.setInflight_shared (s : State) (v : Nat) (l : List Nat) : (s.setInflight v l).shared = s.shared := rfl
@[simp] theorem State.setInflight_spi (s : State) (v : Nat) (l : List Nat) : (s.setInflight v l).spi = s.spi := rfl
@[simp] theorem State.setInflight_vcpu (s : State) (v : Nat) (l : List Nat) : (s.setInflight v l).vcpu = s.vcpu.set v { s.vcpuAt v with inflight := l } := rfl
@[simp] theorem State.setInflight_env (s : State) (v : Nat) (l : List Nat) : (s.setInflight v l).env = s.env := rfl
@[simp] theorem State.setInflight_history (s : State) (v : Nat) (l : List Nat) : (s.setInflight v l).history = s.history := rfl
@[simp] theorem State.setInflight_tasks (s : State) (v : Nat) (l : List Nat) : (s.setInflight v l).tasks = s.tasks := rfl
@[simp] theorem State.setInflight_replies (s : State) (v : Nat) (l : List Nat) : (s.setInflight v l).replies = s.replies := rfl
@[simp] theorem State.setInflight_refusals (s : State) (v : Nat) (l : List Nat) : (s.setInflight v l).refusals = s.refusals := rfl
@[simp] theorem State.setInflight_draws (s : State) (v : Nat) (l : List Nat) : (s.setInflight v l).draws = s.draws := rfl
@[simp] theorem State.setInflight_inputs (s : State) (v : Nat) (l : List Nat) : (s.setInflight v l).inputs = s.inputs := rfl

/-! ### `setEnv` -/

@[simp] theorem State.setEnv_phase (s : State) (v : Nat) (e : VcpuEnv) : (s.setEnv v e).phase = s.phase := rfl
@[simp] theorem State.setEnv_cfg (s : State) (v : Nat) (e : VcpuEnv) : (s.setEnv v e).cfg = s.cfg := rfl
@[simp] theorem State.setEnv_ctlr (s : State) (v : Nat) (e : VcpuEnv) : (s.setEnv v e).ctlr = s.ctlr := rfl
@[simp] theorem State.setEnv_terminated (s : State) (v : Nat) (e : VcpuEnv) : (s.setEnv v e).terminated = s.terminated := rfl
@[simp] theorem State.setEnv_shared (s : State) (v : Nat) (e : VcpuEnv) : (s.setEnv v e).shared = s.shared := rfl
@[simp] theorem State.setEnv_spi (s : State) (v : Nat) (e : VcpuEnv) : (s.setEnv v e).spi = s.spi := rfl
@[simp] theorem State.setEnv_vcpu (s : State) (v : Nat) (e : VcpuEnv) : (s.setEnv v e).vcpu = s.vcpu := rfl
@[simp] theorem State.setEnv_env (s : State) (v : Nat) (e : VcpuEnv) : (s.setEnv v e).env = s.env.set v e := rfl
@[simp] theorem State.setEnv_history (s : State) (v : Nat) (e : VcpuEnv) : (s.setEnv v e).history = s.history := rfl
@[simp] theorem State.setEnv_tasks (s : State) (v : Nat) (e : VcpuEnv) : (s.setEnv v e).tasks = s.tasks := rfl
@[simp] theorem State.setEnv_replies (s : State) (v : Nat) (e : VcpuEnv) : (s.setEnv v e).replies = s.replies := rfl
@[simp] theorem State.setEnv_refusals (s : State) (v : Nat) (e : VcpuEnv) : (s.setEnv v e).refusals = s.refusals := rfl
@[simp] theorem State.setEnv_draws (s : State) (v : Nat) (e : VcpuEnv) : (s.setEnv v e).draws = s.draws := rfl
@[simp] theorem State.setEnv_inputs (s : State) (v : Nat) (e : VcpuEnv) : (s.setEnv v e).inputs = s.inputs := rfl

/-! ### `emitAll` -/

@[simp] theorem State.emitAll_phase (s : State) (es : List Event) : (s.emitAll es).phase = s.phase := rfl
@[simp] theorem State.emitAll_cfg (s : State) (es : List Event) : (s.emitAll es).cfg = s.cfg := rfl
@[simp] theorem State.emitAll_ctlr (s : State) (es : List Event) : (s.emitAll es).ctlr = s.ctlr := rfl
@[simp] theorem State.emitAll_terminated (s : State) (es : List Event) : (s.emitAll es).terminated = s.terminated := rfl
@[simp] theorem State.emitAll_shared (s : State) (es : List Event) : (s.emitAll es).shared = s.shared := rfl
@[simp] theorem State.emitAll_spi (s : State) (es : List Event) : (s.emitAll es).spi = s.spi := rfl
@[simp] theorem State.emitAll_vcpu (s : State) (es : List Event) : (s.emitAll es).vcpu = s.vcpu := rfl
@[simp] theorem State.emitAll_env (s : State) (es : List Event) : (s.emitAll es).env = s.env := rfl
@[simp] theorem State.emitAll_history (s : State) (es : List Event) : (s.emitAll es).history = s.history ++ es := rfl
@[simp] theorem State.emitAll_tasks (s : State) (es : List Event) : (s.emitAll es).tasks = s.tasks := rfl
@[simp] theorem State.emitAll_replies (s : State) (es : List Event) : (s.emitAll es).replies = s.replies := rfl
@[simp] theorem State.emitAll_refusals (s : State) (es : List Event) : (s.emitAll es).refusals = s.refusals := rfl
@[simp] theorem State.emitAll_draws (s : State) (es : List Event) : (s.emitAll es).draws = s.draws := rfl
@[simp] theorem State.emitAll_inputs (s : State) (es : List Event) : (s.emitAll es).inputs = s.inputs := rfl

/-! ### `emit` -/

@[simp] theorem State.emit_phase (s : State) (e : Event) : (s.emit e).phase = s.phase := rfl
@[simp] theorem State.emit_cfg (s : State) (e : Event) : (s.emit e).cfg = s.cfg := rfl
@[simp] theorem State.emit_ctlr (s : State) (e : Event) : (s.emit e).ctlr = s.ctlr := rfl
@[simp] theorem State.emit_terminated (s : State) (e : Event) : (s.emit e).terminated = s.terminated := rfl
@[simp] theorem State.emit_shared (s : State) (e : Event) : (s.emit e).shared = s.shared := rfl
@[simp] theorem State.emit_spi (s : State) (e : Event) : (s.emit e).spi = s.spi := rfl
@[simp] theorem State.emit_vcpu (s : State) (e : Event) : (s.emit e).vcpu = s.vcpu := rfl
@[simp] theorem State.emit_env (s : State) (e : Event) : (s.emit e).env = s.env := rfl
@[simp] theorem State.emit_history (s : State) (e : Event) : (s.emit e).history = s.history ++ [e] := rfl
@[simp] theorem State.emit_tasks (s : State) (e : Event) : (s.emit e).tasks = s.tasks := rfl
@[simp] theorem State.emit_replies (s : State) (e : Event) : (s.emit e).replies = s.replies := rfl
@[simp] theorem State.emit_refusals (s : State) (e : Event) : (s.emit e).refusals = s.refusals := rfl
@[simp] theorem State.emit_draws (s : State) (e : Event) : (s.emit e).draws = s.draws := rfl
@[simp] theorem State.emit_inputs (s : State) (e : Event) : (s.emit e).inputs = s.inputs := rfl

/-! ### `reply` -/

@[simp] theorem State.reply_phase (s : State) (v : Nat) (x : AccessResult) : (s.reply v x).phase = s.phase := rfl
@[simp] theorem State.reply_cfg (s : State) (v : Nat) (x : AccessResult) : (s.reply v x).cfg = s.cfg := rfl
@[simp] theorem State.reply_ctlr (s : State) (v : Nat) (x : AccessResult) : (s.reply v x).ctlr = s.ctlr := rfl
@[simp] theorem State.reply_terminated (s : State) (v : Nat) (x : AccessResult) : (s.reply v x).terminated = s.terminated := rfl
@[simp] theorem State.reply_shared (s : State) (v : Nat) (x : AccessResult) : (s.reply v x).shared = s.shared := rfl
@[simp] theorem State.reply_spi (s : State) (v : Nat) (x : AccessResult) : (s.reply v x).spi = s.spi := rfl
@[simp] theorem State.reply_vcpu (s : State) (v : Nat) (x : AccessResult) : (s.reply v x).vcpu = s.vcpu := rfl
@[simp] theorem State.reply_env (s : State) (v : Nat) (x : AccessResult) : (s.reply v x).env = s.env := rfl
@[simp] theorem State.reply_history (s : State) (v : Nat) (x : AccessResult) : (s.reply v x).history = s.history := rfl
@[simp] theorem State.reply_tasks (s : State) (v : Nat) (x : AccessResult) : (s.reply v x).tasks = s.tasks := rfl
@[simp] theorem State.reply_replies (s : State) (v : Nat) (x : AccessResult) : (s.reply v x).replies = s.replies ++ [⟨v, x⟩] := rfl
@[simp] theorem State.reply_refusals (s : State) (v : Nat) (x : AccessResult) : (s.reply v x).refusals = s.refusals := rfl
@[simp] theorem State.reply_draws (s : State) (v : Nat) (x : AccessResult) : (s.reply v x).draws = s.draws := rfl
@[simp] theorem State.reply_inputs (s : State) (v : Nat) (x : AccessResult) : (s.reply v x).inputs = s.inputs := rfl

/-! ### `fatal` -/

@[simp] theorem State.fatal_phase (s : State) (v : Nat) : (s.fatal v).phase = s.phase := rfl
@[simp] theorem State.fatal_cfg (s : State) (v : Nat) : (s.fatal v).cfg = s.cfg := rfl
@[simp] theorem State.fatal_ctlr (s : State) (v : Nat) : (s.fatal v).ctlr = s.ctlr := rfl
@[simp] theorem State.fatal_terminated (s : State) (v : Nat) : (s.fatal v).terminated = true := rfl
@[simp] theorem State.fatal_shared (s : State) (v : Nat) : (s.fatal v).shared = s.shared := rfl
@[simp] theorem State.fatal_spi (s : State) (v : Nat) : (s.fatal v).spi = s.spi := rfl
@[simp] theorem State.fatal_vcpu (s : State) (v : Nat) : (s.fatal v).vcpu = s.vcpu := rfl
@[simp] theorem State.fatal_env (s : State) (v : Nat) : (s.fatal v).env = s.env := rfl
@[simp] theorem State.fatal_history (s : State) (v : Nat) : (s.fatal v).history = s.history ++ [.domainCrash] := rfl
@[simp] theorem State.fatal_tasks (s : State) (v : Nat) : (s.fatal v).tasks = [] := rfl
@[simp] theorem State.fatal_replies (s : State) (v : Nat) : (s.fatal v).replies = s.replies ++ [⟨v, .fatal⟩] := rfl
@[simp] theorem State.fatal_refusals (s : State) (v : Nat) : (s.fatal v).refusals = s.refusals := rfl
@[simp] theorem State.fatal_draws (s : State) (v : Nat) : (s.fatal v).draws = s.draws := rfl
@[simp] theorem State.fatal_inputs (s : State) (v : Nat) : (s.fatal v).inputs = s.inputs := rfl

/-! ### `popInput` -/

@[simp] theorem State.popInput_phase (s : State) : (s.popInput).phase = s.phase := rfl
@[simp] theorem State.popInput_cfg (s : State) : (s.popInput).cfg = s.cfg := rfl
@[simp] theorem State.popInput_ctlr (s : State) : (s.popInput).ctlr = s.ctlr := rfl
@[simp] theorem State.popInput_terminated (s : State) : (s.popInput).terminated = s.terminated := rfl
@[simp] theorem State.popInput_shared (s : State) : (s.popInput).shared = s.shared := rfl
@[simp] theorem State.popInput_spi (s : State) : (s.popInput).spi = s.spi := rfl
@[simp] theorem State.popInput_vcpu (s : State) : (s.popInput).vcpu = s.vcpu := rfl
@[simp] theorem State.popInput_env (s : State) : (s.popInput).env = s.env := rfl
@[simp] theorem State.popInput_history (s : State) : (s.popInput).history = s.history := rfl
@[simp] theorem State.popInput_tasks (s : State) : (s.popInput).tasks = s.tasks := rfl
@[simp] theorem State.popInput_replies (s : State) : (s.popInput).replies = s.replies := rfl
@[simp] theorem State.popInput_refusals (s : State) : (s.popInput).refusals = s.refusals := rfl
@[simp] theorem State.popInput_draws (s : State) : (s.popInput).draws = s.draws := rfl
@[simp] theorem State.popInput_inputs (s : State) : (s.popInput).inputs = s.inputs.tail := rfl

/-! ### Reads that an update does not touch -/

@[simp] theorem State.setEnv_vcpuAt (s : State) (w : Nat) (e : VcpuEnv) (v : Nat) : (s.setEnv w e).vcpuAt v = s.vcpuAt v := rfl
@[simp] theorem State.setEnv_rankAt (s : State) (w : Nat) (e : VcpuEnv) (v r : Nat) : (s.setEnv w e).rankAt v r = s.rankAt v r := rfl
@[simp] theorem State.setEnv_desc (s : State) (w : Nat) (e : VcpuEnv) (v L : Nat) : (s.setEnv w e).desc v L = s.desc v L := rfl
@[simp] theorem State.setEnv_inflight (s : State) (w : Nat) (e : VcpuEnv) (v : Nat) : (s.setEnv w e).inflight v = s.inflight v := rfl
@[simp] theorem State.setEnv_priorityOf (s : State) (w : Nat) (e : VcpuEnv) (v L : Nat) : (s.setEnv w e).priorityOf v L = s.priorityOf v L := rfl
@[simp] theorem State.setEnv_resolveRank (s : State) (w : Nat) (e : VcpuEnv) (v r L : Nat) : (s.setEnv w e).resolveRank v r L = s.resolveRank v r L := rfl

@[simp] theorem State.emitAll_vcpuAt (s : State) (es : List Event) (v : Nat) : (s.emitAll es).vcpuAt v = s.vcpuAt v := rfl
@[simp] theorem State.emitAll_envAt (s : State) (es : List Event) (v : Nat) : (s.emitAll es).envAt v = s.envAt v := rfl
@[simp] theorem State.emitAll_rankAt (s : State) (es : List Event) (v r : Nat) : (s.emitAll es).rankAt v r = s.rankAt v r := rfl
@[simp] theorem State.emitAll_desc (s : State) (es : List Event) (v L : Nat) : (s.emitAll es).desc v L = s.desc v L := rfl
@[simp] theorem State.emitAll_inflight (s : State) (es : List Event) (v : Nat) : (s.emitAll es).inflight v = s.inflight v := rfl
@[simp] theorem State.emitAll_priorityOf (s : State) (es : List Event) (v L : Nat) : (s.emitAll es).priorityOf v L = s.priorityOf v L := rfl
@[simp] theorem State.emitAll_resolveRank (s : State) (es : List Event) (v r L : Nat) : (s.emitAll es).resolveRank v r L = s.resolveRank v r L := rfl

@[simp] theorem State.emit_vcpuAt (s : State) (e : Event) (v : Nat) : (s.emit e).vcpuAt v = s.vcpuAt v := rfl
@[simp] theorem State.emit_envAt (s : State) (e : Event) (v : Nat) : (s.emit e).envAt v = s.envAt v := rfl
@[simp] theorem State.emit_rankAt (s : State) (e : Event) (v r : Nat) : (s.emit e).rankAt v r = s.rankAt v r := rfl
@[simp] theorem State.emit_desc (s : State) (e : Event) (v L : Nat) : (s.emit e).desc v L = s.desc v L := rfl
@[simp] theorem State.emit_inflight (s : State) (e : Event) (v : Nat) : (s.emit e).inflight v = s.inflight v := rfl
@[simp] theorem State.emit_priorityOf (s : State) (e : Event) (v L : Nat) : (s.emit e).priorityOf v L = s.priorityOf v L := rfl
@[simp] theorem State.emit_resolveRank (s : State) (e : Event) (v r L : Nat) : (s.emit e).resolveRank v r L = s.resolveRank v r L := rfl

@[simp] theorem State.reply_vcpuAt (s : State) (w : Nat) (x : AccessResult) (v : Nat) : (s.reply w x).vcpuAt v = s.vcpuAt v := rfl
@[simp] theorem State.reply_envAt (s : State) (w : Nat) (x : AccessResult) (v : Nat) : (s.reply w x).envAt v = s.envAt v := rfl
@[simp] theorem State.reply_rankAt (s : State) (w : Nat) (x : AccessResult) (v r : Nat) : (s.reply w x).rankAt v r = s.rankAt v r := rfl
@[simp] theorem State.reply_desc (s : State) (w : Nat) (x : AccessResult) (v L : Nat) : (s.reply w x).desc v L = s.desc v L := rfl
@[simp] theorem State.reply_inflight (s : State) (w : Nat) (x : AccessResult) (v : Nat) : (s.reply w x).inflight v = s.inflight v := rfl
@[simp] theorem State.reply_priorityOf (s : State) (w : Nat) (x : AccessResult) (v L : Nat) : (s.reply w x).priorityOf v L = s.priorityOf v L := rfl
@[simp] theorem State.reply_resolveRank (s : State) (w : Nat) (x : AccessResult) (v r L : Nat) : (s.reply w x).resolveRank v r L = s.resolveRank v r L := rfl

@[simp] theorem State.fatal_vcpuAt (s : State) (w : Nat) (v : Nat) : (s.fatal w).vcpuAt v = s.vcpuAt v := rfl
@[simp] theorem State.fatal_envAt (s : State) (w : Nat) (v : Nat) : (s.fatal w).envAt v = s.envAt v := rfl
@[simp] theorem State.fatal_rankAt (s : State) (w : Nat) (v r : Nat) : (s.fatal w).rankAt v r = s.rankAt v r := rfl
@[simp] theorem State.fatal_desc (s : State) (w : Nat) (v L : Nat) : (s.fatal w).desc v L = s.desc v L := rfl
@[simp] theorem State.fatal_inflight (s : State) (w : Nat) (v : Nat) : (s.fatal w).inflight v = s.inflight v := rfl
@[simp] theorem State.fatal_priorityOf (s : State) (w : Nat) (v L : Nat) : (s.fatal w).priorityOf v L = s.priorityOf v L := rfl
@[simp] theorem State.fatal_resolveRank (s : State) (w : Nat) (v r L : Nat) : (s.fatal w).resolveRank v r L = s.resolveRank v r L := rfl

@[simp] theorem State.popInput_vcpuAt (s : State) (v : Nat) : (s.popInput).vcpuAt v = s.vcpuAt v := rfl
@[simp] theorem State.popInput_envAt (s : State) (v : Nat) : (s.popInput).envAt v = s.envAt v := rfl
@[simp] theorem State.popInput_rankAt (s : State) (v r : Nat) : (s.popInput).rankAt v r = s.rankAt v r := rfl
@[simp] theorem State.popInput_desc (s : State) (v L : Nat) : (s.popInput).desc v L = s.desc v L := rfl
@[simp] theorem State.popInput_inflight (s : State) (v : Nat) : (s.popInput).inflight v = s.inflight v := rfl
@[simp] theorem State.popInput_priorityOf (s : State) (v L : Nat) : (s.popInput).priorityOf v L = s.priorityOf v L := rfl
@[simp] theorem State.popInput_resolveRank (s : State) (v r L : Nat) : (s.popInput).resolveRank v r L = s.resolveRank v r L := rfl

@[simp] theorem State.setVcpu_envAt (s : State) (w : Nat) (x : VcpuState) (v : Nat) : (s.setVcpu w x).envAt v = s.envAt v := rfl

@[simp] theorem State.setRank_envAt (s : State) (w q : Nat) (R : Rank) (v : Nat) : (s.setRank w q R).envAt v = s.envAt v := rfl

@[simp] theorem State.setDesc_envAt (s : State) (w M : Nat) (d : Descriptor) (v : Nat) : (s.setDesc w M d).envAt v = s.envAt v := rfl

@[simp] theorem State.setInflight_envAt (s : State) (w : Nat) (l : List Nat) (v : Nat) : (s.setInflight w l).envAt v = s.envAt v := rfl

/-! ### Reads after writes -/

theorem State.vcpuAt_setVcpu (s : State) (v u : Nat) (x : VcpuState) :
    (s.setVcpu v x).vcpuAt u = if v = u ∧ v < s.vcpu.length then x else s.vcpuAt u := by
  simp only [State.vcpuAt, State.setVcpu_vcpu, List.getD_eq_getElem?_getD, List.getElem?_set]
  by_cases h : v = u
  · subst h
    by_cases h' : v < s.vcpu.length
    · simp [h']
    · simp [h']
  · simp [h]

theorem State.vcpuAt_setInflight (s : State) (v u : Nat) (l : List Nat) :
    (s.setInflight v l).vcpuAt u =
      if v = u ∧ v < s.vcpu.length then { s.vcpuAt v with inflight := l } else s.vcpuAt u :=
  State.vcpuAt_setVcpu s v u _

/-- A descriptor write as a write of one vCPU record, for a private line. -/
theorem State.setDesc_private (s : State) (v L : Nat) (d : Descriptor) (h : L < 32) :
    s.setDesc v L d = s.setVcpu v { s.vcpuAt v with pdesc := (s.vcpuAt v).pdesc.setIfInBounds L d } := by
  simp [State.setDesc, State.setVcpu, h]

/-- A descriptor write as a write of the shared table, for a shared line. -/
theorem State.setDesc_shared (s : State) (v L : Nat) (d : Descriptor) (h : 32 ≤ L) :
    s.setDesc v L d = { s with spi := s.spi.set (L - 32) d } := by
  have : ¬ L < 32 := by omega
  simp [State.setDesc, this]

theorem State.vcpuAt_setDesc (s : State) (v u L : Nat) (d : Descriptor) :
    (s.setDesc v L d).vcpuAt u =
      if v = u ∧ v < s.vcpu.length ∧ L < 32 then
        { s.vcpuAt v with pdesc := (s.vcpuAt v).pdesc.setIfInBounds L d } else s.vcpuAt u := by
  by_cases h : L < 32
  · rw [State.setDesc_private s v L d h, State.vcpuAt_setVcpu]; simp [h]
  · rw [State.setDesc_shared s v L d (by omega)]; simp [h, State.vcpuAt]

/-- A private rank write as a write of one vCPU record. -/
theorem State.setRank_private (s : State) (v : Nat) (R : Rank) :
    s.setRank v 0 R = s.setVcpu v { s.vcpuAt v with prank := R } := by
  simp [State.setRank, State.setVcpu]

/-- A shared rank write as a write of the shared ranks. -/
theorem State.setRank_shared (s : State) (v r : Nat) (R : Rank) (h : r ≠ 0) :
    s.setRank v r R = { s with shared := s.shared.set (r - 1) R } := by
  simp [State.setRank, h]

theorem State.vcpuAt_setRank (s : State) (v u r : Nat) (R : Rank) :
    (s.setRank v r R).vcpuAt u =
      if v = u ∧ v < s.vcpu.length ∧ r = 0 then { s.vcpuAt v with prank := R } else s.vcpuAt u := by
  by_cases h : r = 0
  · subst h; rw [State.setRank_private, State.vcpuAt_setVcpu]; simp
  · rw [State.setRank_shared s v r R h]; simp [h, State.vcpuAt]

@[simp] theorem State.inflight_setDesc (s : State) (v u L : Nat) (d : Descriptor) :
    (s.setDesc v L d).inflight u = s.inflight u := by
  simp only [State.inflight, State.vcpuAt_setDesc]; split <;> simp_all

@[simp] theorem State.inflight_setRank (s : State) (v u r : Nat) (R : Rank) :
    (s.setRank v r R).inflight u = s.inflight u := by
  simp only [State.inflight, State.vcpuAt_setRank]; split <;> simp_all

theorem State.inflight_setInflight (s : State) (v u : Nat) (l : List Nat) :
    (s.setInflight v l).inflight u = if v = u ∧ v < s.vcpu.length then l else s.inflight u := by
  simp only [State.inflight, State.vcpuAt_setInflight]; split <;> rfl

@[simp] theorem State.desc_setInflight (s : State) (v u L : Nat) (l : List Nat) :
    (s.setInflight v l).desc u L = s.desc u L := by
  simp only [State.desc, State.vcpuAt_setInflight, State.setInflight_spi]
  split
  · split <;> simp_all
  · rfl

@[simp] theorem State.desc_setRank (s : State) (v u r L : Nat) (R : Rank) :
    (s.setRank v r R).desc u L = s.desc u L := by
  by_cases h : r = 0
  · subst h
    simp only [State.desc, State.vcpuAt_setRank, State.setRank_spi]
    split
    · split <;> simp_all
    · rfl
  · rw [State.setRank_shared s v r R h]; rfl

/-- Reading a descriptor after a write of one. -/
theorem State.desc_setDesc (s : State) (v L u M : Nat) (d : Descriptor) :
    (s.setDesc v L d).desc u M =
      if L = M ∧ ((L < 32 ∧ v = u ∧ v < s.vcpu.length) ∨ (32 ≤ L ∧ L - 32 < s.spi.length)) then d
      else s.desc u M := by
  by_cases hL : L < 32
  · simp only [State.desc, State.vcpuAt_setDesc]
    by_cases hM : M < 32
    · simp only [hM, if_true, Vector.getD]
      by_cases h1 : v = u ∧ v < s.vcpu.length
      · obtain ⟨rfl, h2⟩ := h1
        by_cases h3 : L = M
        · subst h3; simp [h2, hL]
        · simp [h2, hL, h3, hM]
      · have h4 : ¬ (v = u ∧ v < s.vcpu.length ∧ L < 32) := by tauto
        have h5 : ¬ (32 ≤ L) := by omega
        simp only [h4, if_false]
        rw [if_neg (by tauto)]
    · have : L ≠ M := by omega
      simp [hM, this, State.setDesc_private s v L d hL]
  · have hL' : 32 ≤ L := by omega
    rw [State.setDesc_shared s v L d hL']
    by_cases hM : M < 32
    · have : L ≠ M := by omega
      simp [State.desc, hM, this, State.vcpuAt]
    · simp only [State.desc, hM, if_false, List.getD_eq_getElem?_getD, List.getElem?_set]
      by_cases h3 : L = M
      · subst h3
        by_cases h4 : L - 32 < s.spi.length <;> simp [h4, hL, hL']
      · have : L - 32 ≠ M - 32 := by omega
        simp [this, h3]

/-- Reading a rank after a write of one. -/
theorem State.rankAt_setRank (s : State) (v r u q : Nat) (R : Rank) :
    (s.setRank v r R).rankAt u q =
      if r = q ∧ ((r = 0 ∧ v = u ∧ v < s.vcpu.length) ∨ (r ≠ 0 ∧ r - 1 < s.shared.length)) then R
      else s.rankAt u q := by
  by_cases hr : r = 0
  · subst hr
    by_cases hq : q = 0
    · subst hq
      simp only [State.rankAt, if_true, State.vcpuAt_setRank]
      by_cases h : v = u ∧ v < s.vcpu.length
      · rw [if_pos ⟨h.1, h.2, trivial⟩, if_pos ⟨trivial, .inl ⟨trivial, h⟩⟩]
      · rw [if_neg (by tauto), if_neg (by tauto)]
    · have : ¬ (0 = q) := by omega
      simp [State.rankAt, hq, this, State.setRank_private]
  · rw [State.setRank_shared s v r R hr]
    by_cases hq : q = 0
    · subst hq; simp [State.rankAt, hr, State.vcpuAt]
    · simp only [State.rankAt, hq, if_false, List.getD_eq_getElem?_getD, List.getElem?_set]
      by_cases h3 : r = q
      · subst h3
        by_cases h4 : r - 1 < s.shared.length <;> simp [h4, hr]
      · have : r - 1 ≠ q - 1 := by omega
        simp [this, h3]

@[simp] theorem State.rankAt_setDesc (s : State) (v L u q : Nat) (d : Descriptor) :
    (s.setDesc v L d).rankAt u q = s.rankAt u q := by
  simp only [State.rankAt, State.vcpuAt_setDesc, State.setDesc_sharedRanks]
  split
  · split <;> simp_all
  · rfl

@[simp] theorem State.rankAt_setInflight (s : State) (v u q : Nat) (l : List Nat) :
    (s.setInflight v l).rankAt u q = s.rankAt u q := by
  simp only [State.rankAt, State.vcpuAt_setInflight, State.setInflight_shared]
  split
  · split <;> simp_all
  · rfl

@[simp] theorem State.setDesc_vcpu_length (s : State) (v L : Nat) (d : Descriptor) :
    (s.setDesc v L d).vcpu.length = s.vcpu.length := by
  simp only [State.setDesc]; split <;> simp

@[simp] theorem State.setDesc_spi_length (s : State) (v L : Nat) (d : Descriptor) :
    (s.setDesc v L d).spi.length = s.spi.length := by
  simp only [State.setDesc]; split <;> simp

@[simp] theorem State.setRank_vcpu_length (s : State) (v r : Nat) (R : Rank) :
    (s.setRank v r R).vcpu.length = s.vcpu.length := by
  simp only [State.setRank]; split <;> simp

@[simp] theorem State.setRank_shared_length (s : State) (v r : Nat) (R : Rank) :
    (s.setRank v r R).shared.length = s.shared.length := by
  simp only [State.setRank]; split <;> simp

@[simp] theorem State.created_setDesc (s : State) (v L u : Nat) (d : Descriptor) :
    ((s.setDesc v L d).vcpuAt u).created = (s.vcpuAt u).created := by
  simp only [State.vcpuAt_setDesc]; split <;> simp_all

@[simp] theorem State.created_setRank (s : State) (v r u : Nat) (R : Rank) :
    ((s.setRank v r R).vcpuAt u).created = (s.vcpuAt u).created := by
  simp only [State.vcpuAt_setRank]; split <;> simp_all

@[simp] theorem State.created_setInflight (s : State) (v u : Nat) (l : List Nat) :
    ((s.setInflight v l).vcpuAt u).created = (s.vcpuAt u).created := by
  simp only [State.vcpuAt_setInflight]; split <;> simp_all

end Sys2Proof.Machine
end

