-- ==== Sys2Proof/Laws/Ops.lean ====
section
/-! SUPPORT. What each shared operation can do, once: the dispatch of an access, the effect of each instruction after
dispatch, an injection, a step of an operation in progress, the ports and the step of the machine. Later proofs cite
these inversion lemmas and do not unfold the operations. -/

namespace Sys2Proof.Machine

/-! ### Preconditions -/

/-- A vCPU operation is not refused exactly when the domain is live and not terminated and the vCPU exists. -/
theorem State.vcpuRefusal_eq_none (s : State) (v : Nat) :
    s.vcpuRefusal v = none ↔
      s.phase = .live ∧ s.terminated = false ∧ v < s.cfg.nvcpu ∧ (s.vcpuAt v).created = true := by
  simp only [State.vcpuRefusal]
  split
  · simp_all
  · split
    · simp_all
    · by_cases h : v < s.cfg.nvcpu ∧ (s.vcpuAt v).created = true
      · simp_all
      · rw [if_pos (by simp only [Bool.eq_false_iff]; tauto)]
        simp only [reduceCtorEq, false_iff]; tauto

/-- An access is not refused exactly when it is ready (41_mmio_dispatch.md R120, 46_ports_lifecycle.md R261). -/
theorem State.accessRefusal_eq_none (s : State) (v : Nat) : s.accessRefusal v = none ↔ s.Ready v := by
  simp only [State.accessRefusal, State.Ready]
  cases h : s.vcpuRefusal v with
  | some c =>
    have : s.vcpuRefusal v ≠ none := by simp [h]
    rw [Ne, State.vcpuRefusal_eq_none] at this
    simp only [reduceCtorEq, false_iff]; tauto
  | none =>
    have := (State.vcpuRefusal_eq_none s v).1 h
    simp [this, Task.isAccessOf]

/-- A call on a line is not refused exactly when the line is ready (46_ports_lifecycle.md R250 to R253). -/
theorem State.lineRefusal_eq_none (s : State) (v L : Nat) : s.lineRefusal v L = none ↔ s.LineReady v L := by
  simp only [State.lineRefusal, State.LineReady]
  cases h : s.vcpuRefusal v with
  | some c =>
    have : s.vcpuRefusal v ≠ none := by simp [h]
    rw [Ne, State.vcpuRefusal_eq_none] at this
    simp only [reduceCtorEq, false_iff]; tauto
  | none =>
    have := (State.vcpuRefusal_eq_none s v).1 h
    simp [this]

/-- The rank of word `n` is absent exactly when it is not present (40_rank_store.md R101). -/
theorem State.rankAbsent_iff (s : State) (g : Group) (v n : Nat) : s.rankAbsent g v n = true ↔ ¬ s.Present g n := by
  simp only [State.rankAbsent, State.Present, State.resolveRank]
  cases g.bitsPerLine with
  | none => simp
  | some b =>
    simp only [Option.mem_def, Option.some.injEq, forall_eq']
    by_cases h : n / b = 0
    · simp [h]
    · by_cases h' : n / b ≤ s.cfg.nsr <;> simp [h, h']

/-- The width check as R123 writes it. -/
theorem widthOk_iff (g : Group) (sz : Size) (l : BitVec 2) : widthOk g sz l = true ↔ g.WidthAllowed sz l := by
  cases g <;> simp [widthOk, Group.WidthAllowed, Group.allowsBytes]

/-! ### Dispatch -/

theorem access_of_not_ready {g : Group} {n v : Nat} {sz : Size} {l : BitVec 2} {benign : AccessResult}
    {perform : State → Result} {s : State} (h : ¬ s.Ready v) :
    ∃ c, access g n v sz l benign perform s = .refused (.port c) := by
  rw [← State.accessRefusal_eq_none] at h
  obtain ⟨c, hc⟩ := Option.ne_none_iff_exists'.1 h
  exact ⟨c, by simp only [access, hc]⟩

theorem access_of_absent {g : Group} {n v : Nat} {sz : Size} {l : BitVec 2} {benign : AccessResult}
    {perform : State → Result} {s : State} (h : s.Ready v) (ha : ¬ s.Present g n) :
    access g n v sz l benign perform s = .next (s.reply v benign) := by
  rw [← State.accessRefusal_eq_none] at h
  rw [← State.rankAbsent_iff s g v n] at ha
  simp only [access, h, ha, if_true]

theorem access_of_width {g : Group} {n v : Nat} {sz : Size} {l : BitVec 2} {benign : AccessResult}
    {perform : State → Result} {s : State} (h : s.Ready v) (hp : s.Present g n) (hw : ¬ g.WidthAllowed sz l) :
    access g n v sz l benign perform s = .next (s.fatal v) := by
  rw [← State.accessRefusal_eq_none] at h
  rw [← widthOk_iff] at hw
  have ha : ¬ s.rankAbsent g v n = true := fun e => (State.rankAbsent_iff s g v n).1 e hp
  simp only [access, h, ha, hw]; rfl

theorem access_of_ok {g : Group} {n v : Nat} {sz : Size} {l : BitVec 2} {benign : AccessResult}
    {perform : State → Result} {s : State} (h : s.Ready v) (hp : s.Present g n) (hw : g.WidthAllowed sz l) :
    access g n v sz l benign perform s = perform s := by
  rw [← State.accessRefusal_eq_none] at h
  rw [← widthOk_iff] at hw
  have ha : ¬ s.rankAbsent g v n = true := fun e => (State.rankAbsent_iff s g v n).1 e hp
  simp only [access, h, ha, hw, if_true]; rfl

/-- What an access that dispatch lets through does in its first atomic step, instruction by instruction. -/
def performed : Instr → State → State
  | .rdRsvd _ a, s =>
    s.reply a.v.toNat (.handledRead 0#32)
  | .rdRsvd7FC a, s =>
    s.reply a.v.toNat (.handledRead 0#32)
  | .rdRsvdBFC a, s =>
    s.reply a.v.toNat (.handledRead 0#32)
  | .rdCtlr a, s =>
    s.reply a.v.toNat (.handledRead (s.ctlr.setWidth 32))
  | .rdTyper a, s =>
    s.reply a.v.toNat (.handledRead (s.cfg.typer))
  | .rdIidr a, s =>
    s.reply a.v.toNat (.handledRead s.cfg.iidrValue)
  | .rdImpdef _ a, s =>
    s.reply a.v.toNat (.handledRead 0#32)
  | .rdImpdefD00 _ a, s =>
    s.reply a.v.toNat (.handledRead 0#32)
  | .rdIgroupr _ a, s =>
    s.reply a.v.toNat (.handledRead 0#32)
  | .rdIsenabler n a, s =>
    s.reply a.v.toNat (.handledRead ((s.rankAt a.v.toNat n.toNat).enable))
  | .rdIcenabler n a, s =>
    s.reply a.v.toNat (.handledRead ((s.rankAt a.v.toNat n.toNat).enable))
  | .rdIspendr n a, s =>
    s.reply a.v.toNat (.handledRead (readValue (s.rankAt a.v.toNat n.toNat).pending a))
  | .rdIcpendr n a, s =>
    s.reply a.v.toNat (.handledRead (readValue (s.rankAt a.v.toNat n.toNat).pending a))
  | .rdIsactiver n a, s =>
    s.reply a.v.toNat (.handledRead ((s.rankAt a.v.toNat n.toNat).active))
  | .rdIcactiver n a, s =>
    s.reply a.v.toNat (.handledRead ((s.rankAt a.v.toNat n.toNat).active))
  | .rdIpriorityr n a, s =>
    s.reply a.v.toNat (.handledRead (readValue (pack (s.rankAt a.v.toNat (n.toNat / 8)).priority (n.toNat % 8)) a))
  | .rdItargetsr n a, s =>
    s.reply a.v.toNat (.handledRead (readValue (pack (s.rankAt a.v.toNat (n.toNat / 8)).target (n.toNat % 8)) a))
  | .rdIcfgr n a, s =>
    s.reply a.v.toNat (.handledRead ((s.rankAt a.v.toNat (n.toNat / 2)).config.getD (n.toNat % 2) 0#32))
  | .rdNsacr _ a, s =>
    s.reply a.v.toNat (.handledRead 0#32)
  | .rdSgir a, s =>
    { s.reply a.v.toNat (.handledRead (Config.freeWord s.draws)) with draws := s.draws + 1 }
  | .rdCpendsgir n a, s =>
    s.reply a.v.toNat (.handledRead (readValue (pack (s.rankAt a.v.toNat 0).pendsgi n.toNat) a))
  | .rdSpendsgir n a, s =>
    s.reply a.v.toNat (.handledRead (readValue (pack (s.rankAt a.v.toNat 0).pendsgi n.toNat) a))
  | .rdPid _ a, s =>
    s.reply a.v.toNat .unhandled
  | .rdPidFE0 _ a, s =>
    s.reply a.v.toNat .unhandled
  | .wrRsvd _ a, s =>
    s.reply a.v.toNat .handled
  | .wrRsvd7FC a, s =>
    s.reply a.v.toNat .handled
  | .wrRsvdBFC a, s =>
    s.reply a.v.toNat .handled
  | .wrCtlr a, s =>
    { s with ctlr := a.val.extractLsb' 0 1 }.reply a.v.toNat .handled
  | .wrTyper a, s =>
    s.reply a.v.toNat .handled
  | .wrIidr a, s =>
    s.reply a.v.toNat .handled
  | .wrImpdef _ a, s =>
    s.reply a.v.toNat .handled
  | .wrImpdefD00 _ a, s =>
    s.reply a.v.toNat .handled
  | .wrIgroupr _ a, s =>
    s.reply a.v.toNat .handled
  | .wrIsenabler n a, s =>
    (setEnable s a.v.toNat n.toNat a.val).begin
      ⟨some a.v.toNat, (s.envAt a.v.toNat).runningOn, .none,
        .enable a.v.toNat (newlyEnabled s a.v.toNat n.toNat a.val) n.toNat⟩
  | .wrIcenabler n a, s =>
    (clearEnable s a.v.toNat n.toNat a.val).begin
      ⟨some a.v.toNat, (s.envAt a.v.toNat).runningOn, .none,
        .disable a.v.toNat (newlyDisabled s a.v.toNat n.toNat a.val) n.toNat⟩
  | .wrIspendr _ a, s =>
    s.reply a.v.toNat .unhandled
  | .wrIcpendr _ a, s =>
    s.reply a.v.toNat .unhandled
  | .wrIsactiver _ a, s =>
    s.reply a.v.toNat .handled
  | .wrIcactiver n a, s =>
    (clearActive s a.v.toNat n.toNat a.val).reply a.v.toNat .handled
  | .wrIpriorityr n a, s =>
    (storePriority s n.toNat a).reply a.v.toNat .handled
  | .wrItargetsr n a, s =>
    (storeTarget s n.toNat a).reply a.v.toNat .handled
  | .wrItargetsrRo _ a, s =>
    s.reply a.v.toNat .handled
  | .wrIcfgr n a, s =>
    (storeCfgWord s n.toNat a).reply a.v.toNat .handled
  | .wrIcfgrRo _ a, s =>
    s.reply a.v.toNat .handled
  | .wrNsacr _ a, s =>
    s.reply a.v.toNat .handled
  | .wrSgir a, s =>
    dispatchSgi a.v.toNat a.val s
  | .wrCpendsgir _ a, s =>
    s.reply a.v.toNat .unhandled
  | .wrSpendsgir _ a, s =>
    s.reply a.v.toNat .unhandled
  | .wrPid _ a, s =>
    s.reply a.v.toNat .handled
  | .wrPidFE0 _ a, s =>
    s.reply a.v.toNat .handled
  | .wrSgirList v list id, s =>
    sgiFanOut v.toNat list id.toNat s
  | .wrSgirOthers v id, s =>
    sgiFanOut v.toNat (othersMask s.cfg v.toNat) id.toNat s
  | .wrSgirSelf v id, s =>
    sgiFanOut v.toNat (1#8 <<< v.toNat) id.toNat s
  | .wrSgirRsvd v val, s =>
    sgiBadFilter v.toNat val s

/-- What an absent rank returns (41_mmio_dispatch.md R122). -/
def benignResult (i : Instr) : AccessResult := if i.isRead then .handledRead 0#32 else .handled

/-- Every instruction goes through dispatch. -/
theorem exec_eq_access (i : Instr) (s : State) :
    exec i s = access i.group i.wordIndex i.accessor.toNat i.size i.byteLane (benignResult i)
      (fun s => .next (performed i s)) s := by
  cases i <;> rfl

theorem exec_of_absent {i : Instr} {s : State} (h : s.Ready i.accessor.toNat)
    (ha : ¬ s.Present i.group i.wordIndex) : exec i s = .next (s.reply i.accessor.toNat (benignResult i)) := by
  rw [exec_eq_access, access_of_absent h ha]

theorem exec_of_width {i : Instr} {s : State} (h : s.Ready i.accessor.toNat) (hp : s.Present i.group i.wordIndex)
    (hw : ¬ i.group.WidthAllowed i.size i.byteLane) : exec i s = .next (s.fatal i.accessor.toNat) := by
  rw [exec_eq_access, access_of_width h hp hw]

theorem exec_of_ok {i : Instr} {s : State} (h : s.Ready i.accessor.toNat) (hp : s.Present i.group i.wordIndex)
    (hw : i.group.WidthAllowed i.size i.byteLane) : exec i s = .next (performed i s) := by
  rw [exec_eq_access, access_of_ok h hp hw]

/-- If an access answers a next state, it was ready, and it is the benign outcome of an absent rank, the Fatal outcome,
or what its instruction does. -/
theorem exec_next {i : Instr} {s t : State} (h : exec i s = .next t) :
    s.Ready i.accessor.toNat ∧
    ((¬ s.Present i.group i.wordIndex ∧ t = s.reply i.accessor.toNat (benignResult i)) ∨
     (s.Present i.group i.wordIndex ∧ ¬ i.group.WidthAllowed i.size i.byteLane ∧ t = s.fatal i.accessor.toNat) ∨
     (s.Present i.group i.wordIndex ∧ i.group.WidthAllowed i.size i.byteLane ∧ t = performed i s)) := by
  by_cases hr : s.Ready i.accessor.toNat
  · refine ⟨hr, ?_⟩
    by_cases hp : s.Present i.group i.wordIndex
    · by_cases hw : i.group.WidthAllowed i.size i.byteLane
      · rw [exec_of_ok hr hp hw] at h; cases h; exact .inr (.inr ⟨hp, hw, rfl⟩)
      · rw [exec_of_width hr hp hw] at h; cases h; exact .inr (.inl ⟨hp, hw, rfl⟩)
    · rw [exec_of_absent hr hp] at h; cases h; exact .inl ⟨hp, rfl⟩
  · rw [exec_eq_access] at h
    obtain ⟨c, hc⟩ := access_of_not_ready (g := i.group) (n := i.wordIndex) (sz := i.size) (l := i.byteLane)
      (benign := benignResult i) (perform := fun s => .next (performed i s)) hr
    rw [hc] at h; cases h

/-! ### Operations in progress -/

/-- An operation with nothing left is complete; else it is in progress (10_state.md R41). -/
theorem State.begin_cases (s : State) (x : Task) :
    (x.isDone = true ∧ s.begin x = s.complete x) ∨
    (x.isDone = false ∧ s.begin x = { s with tasks := s.tasks ++ [x] }) := by
  simp only [State.begin]
  cases x.isDone <;> simp

theorem State.putTask_cases (s : State) (k : Nat) (x : Task) :
    (x.isDone = true ∧ s.putTask k x = { s with tasks := s.tasks.eraseIdx k }.complete x) ∨
    (x.isDone = false ∧ s.putTask k x = { s with tasks := s.tasks.set k x }) := by
  simp only [State.putTask]
  cases x.isDone <;> simp

/-- Completing an operation appends to the replies and changes nothing else. -/
theorem State.complete_eq (s : State) (x : Task) :
    s.complete x = { s with replies := s.replies ++
      (match x.accessor with | some v => [⟨v, .handled⟩] | none => []) } := by
  simp only [State.complete]
  cases x.accessor <;> simp [State.reply]

/-- Putting an operation back leaves what it has left, and changes nothing but the operations and the replies. -/
theorem State.putTask_leaves (s : State) (k : Nat) (x : Task) :
    s.Leaves (s.putTask k x) k x ∧
    s.putTask k x = { s with tasks := (s.putTask k x).tasks, replies := (s.putTask k x).replies } := by
  rcases s.putTask_cases k x with ⟨hd, h⟩ | ⟨hd, h⟩
  · rw [h, State.complete_eq]
    refine ⟨?_, rfl⟩
    rw [State.Leaves, if_pos hd]
    exact ⟨rfl, rfl⟩
  · rw [h]; simp [State.Leaves, hd]

/-- If the k-th operation makes a step, it is in progress, and the step is `taskStep`. -/
theorem advance_next {k : Nat} {s t : State} (h : advance k s = .next t) :
    ∃ x, s.tasks[k]? = some x ∧ t = (taskStep x s).1.putTask k (taskStep x s).2 := by
  simp only [advance] at h
  split at h
  · cases h; exact ⟨_, ‹_›, rfl⟩
  · cases h

theorem advance_of_getElem? {k : Nat} {s : State} {x : Task} (h : s.tasks[k]? = some x) :
    advance k s = .next ((taskStep x s).1.putTask k (taskStep x s).2) := by
  simp only [advance, h]

/-- What dispatch lets through leaves the operations in progress as they were, but that it may add one of its own. -/
theorem performed_tasks (i : Instr) (s : State) :
    (performed i s).tasks = s.tasks ∨
    ∃ y : Task, (performed i s).tasks = s.tasks ++ [y] ∧ y.accessor = some i.accessor.toNat := by
  have hb : ∀ (t : State) (y : Task), t.tasks = s.tasks → y.accessor = some i.accessor.toNat →
      (t.begin y).tasks = s.tasks ∨
      ∃ z : Task, (t.begin y).tasks = s.tasks ++ [z] ∧ z.accessor = some i.accessor.toNat := by
    intro t y h1 h2
    rcases State.begin_cases t y with ⟨_, e⟩ | ⟨_, e⟩ <;> rw [e]
    · left; rw [State.complete_eq]; exact h1
    · right; exact ⟨y, by show t.tasks ++ [y] = _; rw [h1], h2⟩
  cases i
  case wrIsenabler n a => exact hb _ _ rfl rfl
  case wrIcenabler n a => exact hb _ _ rfl rfl
  case wrSgirList => exact hb _ _ rfl rfl
  case wrSgirOthers => exact hb _ _ rfl rfl
  case wrSgirSelf => exact hb _ _ rfl rfl
  case wrSgir a =>
    simp only [performed, dispatchSgi]
    repeat' split
    · exact hb _ _ rfl rfl
    · exact hb _ _ rfl rfl
    · exact hb _ _ rfl rfl
    · exact .inl rfl
  all_goals exact .inl rfl

/-- The three ways steps 1 to 4 of an injection end (44_injection.md R211 to R214). -/
theorem injectLink_cases (v L : Nat) (s : State) :
    (∃ u, (s.desc v L).linked = some u ∧
      injectLink v L s = ((s.setDesc v L (s.desc v L).retrigger).emit (.piReraise u L), false)) ∨
    ((s.desc v L).linked = none ∧ (s.envAt v).online = false ∧ injectLink v L s = (s, false)) ∨
    ((s.desc v L).linked = none ∧ (s.envAt v).online = true ∧
      injectLink v L s = (injectInsert v L (injectRaise v L s), true)) := by
  simp only [injectLink]
  cases h : (s.desc v L).linked with
  | some u => exact .inl ⟨u, rfl, rfl⟩
  | none => cases h' : (s.envAt v).online <;> simp

/-- What one step of an operation in progress does to the state, and what it leaves. -/
theorem taskStep_cases (x : Task) (s : State) :
    (∃ v L, x.inj = .link v L ∧
      taskStep x s = ((injectLink v L s).1, { x with inj := if (injectLink v L s).2 then .notify v else .none })) ∨
    (∃ v, x.inj = .notify v ∧ taskStep x s = (injectNotify v x.cp s, { x with inj := .none })) ∨
    (x.inj = .none ∧
      ((∃ v m n i, x.work = .enable v m n ∧ lowestBit m = some i ∧
          taskStep x s = ((enableStep v (32 * n + i) s).1,
            { x with inj := (enableStep v (32 * n + i) s).2, work := .enable v (clearBit m i) n })) ∨
       (∃ v m n i, x.work = .disable v m n ∧ lowestBit m = some i ∧
          taskStep x s = (disableStep v (32 * n + i) s, { x with inj := .none, work := .disable v (clearBit m i) n })) ∨
       (∃ m id j, x.work = .fanOut m id ∧ lowestBit m = some j ∧ badTarget s j = true ∧
          taskStep x s = (s.emit (.diagBadTarget j), { x with inj := .none, work := .fanOut (clearBit m j) id })) ∨
       (∃ m id j, x.work = .fanOut m id ∧ lowestBit m = some j ∧ badTarget s j = false ∧
          taskStep x s = (s, { x with inj := .link j id, work := .fanOut (clearBit m j) id })) ∨
       (x.work.isDone = true ∧ taskStep x s = (s, { x with inj := .none, work := .nothing })))) := by
  cases hi : x.inj with
  | link v L => exact .inl ⟨v, L, rfl, by simp only [taskStep, hi]⟩
  | notify v => exact .inr (.inl ⟨v, rfl, by simp only [taskStep, hi]⟩)
  | none =>
    refine .inr (.inr ⟨rfl, ?_⟩)
    cases hw : x.work with
    | nothing => exact .inr (.inr (.inr (.inr ⟨rfl, by simp only [taskStep, hi, hw, workStep]⟩)))
    | enable v m n =>
      cases hb : lowestBit m with
      | some i => exact .inl ⟨v, m, n, i, rfl, hb, by simp only [taskStep, hi, hw, workStep, hb]⟩
      | none =>
        have := (lowestBit_eq_none m).1 hb
        exact .inr (.inr (.inr (.inr ⟨by simp [Work.isDone, this], by simp only [taskStep, hi, hw, workStep, hb]⟩)))
    | disable v m n =>
      cases hb : lowestBit m with
      | some i => exact .inr (.inl ⟨v, m, n, i, rfl, hb, by simp only [taskStep, hi, hw, workStep, hb]⟩)
      | none =>
        have := (lowestBit_eq_none m).1 hb
        exact .inr (.inr (.inr (.inr ⟨by simp [Work.isDone, this], by simp only [taskStep, hi, hw, workStep, hb]⟩)))
    | fanOut m id =>
      cases hb : lowestBit m with
      | some j =>
        cases ht : badTarget s j with
        | true =>
          exact .inr (.inr (.inl ⟨m, id, j, rfl, hb, ht, by simp only [taskStep, hi, hw, workStep, hb, ht]; rfl⟩))
        | false =>
          exact .inr (.inr (.inr (.inl ⟨m, id, j, rfl, hb, ht, by simp only [taskStep, hi, hw, workStep, hb, ht]; rfl⟩)))
      | none =>
        have := (lowestBit_eq_none m).1 hb
        exact .inr (.inr (.inr (.inr ⟨by simp [Work.isDone, this], by simp only [taskStep, hi, hw, workStep, hb]⟩)))

/-- A step of an operation in progress changes descriptors, inflight lists and the history only. -/
theorem taskStep_frame (x : Task) (s : State) :
    (taskStep x s).1 =
      { s with vcpu := (taskStep x s).1.vcpu, spi := (taskStep x s).1.spi, history := (taskStep x s).1.history } := by
  have hi : ∀ v L, (injectLink v L s).1 = { s with
      vcpu := (injectLink v L s).1.vcpu, spi := (injectLink v L s).1.spi, history := (injectLink v L s).1.history } := by
    intro v L
    rcases injectLink_cases v L s with ⟨_, _, h⟩ | ⟨_, _, h⟩ | ⟨_, _, h⟩ <;> rw [h] <;> rfl
  rcases taskStep_cases x s with ⟨v, L, _, h⟩ | ⟨v, _, h⟩ | ⟨_, ⟨v, m, n, i, _, _, h⟩ | ⟨v, m, n, i, _, _, h⟩ |
    ⟨_, _, _, _, _, _, h⟩ | ⟨_, _, _, _, _, _, h⟩ | ⟨_, h⟩⟩ <;> rw [h]
  · exact hi v L
  · rfl
  · simp only [enableStep]; split <;> rfl
  · simp only [disableStep]; cases (s.desc v (32 * n + i)).linked <;> rfl
  · rfl

/-- The same of the machine: the operations in progress and the replies change beside them. -/
theorem advance_frame {k : Nat} {s t : State} (h : advance k s = .next t) :
    t = { s with vcpu := t.vcpu, spi := t.spi, history := t.history, tasks := t.tasks, replies := t.replies } := by
  obtain ⟨x, _, rfl⟩ := advance_next h
  rw [((taskStep x s).1.putTask_leaves k (taskStep x s).2).2, taskStep_frame]

/-! ### Ports -/

/-- A call on a line that is not ready is refused, with some reason (46_ports_lifecycle.md R250 to R253). -/
theorem State.lineRefusal_of_not_ready {s : State} {v L : Nat} (h : ¬ s.LineReady v L) :
    ∃ c, s.lineRefusal v L = some c := by
  rw [← State.lineRefusal_eq_none] at h
  exact Option.ne_none_iff_exists'.1 h

/-- `Inject` with bad operands is refused (R250). -/
theorem portInject_of_not_ready {s : State} {v L : Nat} {cp : Option Nat} (h : ¬ s.LineReady v L) :
    ∃ c, portInject v L cp s = .refused (.port c) := by
  obtain ⟨c, hc⟩ := State.lineRefusal_of_not_ready h
  exact ⟨c, by simp only [portInject, hc]⟩

/-- A collaborator call with bad operands is refused (R251 to R253). -/
theorem collaborator_of_not_ready {s : State} {u L : Nat} {f : State → State} (h : ¬ s.LineReady u L) :
    ∃ c, collaborator u L f s = .refused (.port c) := by
  obtain ⟨c, hc⟩ := State.lineRefusal_of_not_ready h
  exact ⟨c, by simp only [collaborator, hc]⟩

/-- `CreateVcpu` is refused outside its precondition (R255, R139). -/
theorem portCreateVcpu_of_not_ready {s : State} {v : Nat}
    (h : ¬ (s.phase = .live ∧ s.terminated = false ∧ v < s.cfg.nvcpu ∧ (s.vcpuAt v).created = false)) :
    ∃ c, portCreateVcpu v s = .refused (.port c) := by
  simp only [portCreateVcpu]
  split
  · exact ⟨_, rfl⟩
  · split
    · exact ⟨_, rfl⟩
    · split
      · exact ⟨_, rfl⟩
      · split
        · exact ⟨_, rfl⟩
        · simp_all

/-- `DestroyVcpu` is refused for a vCPU that does not exist (R256, R139). -/
theorem portDestroyVcpu_of_not_ready {s : State} {v : Nat}
    (h : ¬ (s.phase = .live ∧ s.terminated = false ∧ v < s.cfg.nvcpu ∧ (s.vcpuAt v).created = true)) :
    ∃ c, portDestroyVcpu v s = .refused (.port c) := by
  rw [← State.vcpuRefusal_eq_none] at h
  obtain ⟨c, hc⟩ := Option.ne_none_iff_exists'.1 h
  exact ⟨c, by simp only [portDestroyVcpu, hc]⟩

theorem portInject_next {v L : Nat} {cp : Option Nat} {s t : State} (h : portInject v L cp s = .next t) :
    s.LineReady v L ∧ t = (injectLink v L s).1.begin
      ⟨none, cp, if (injectLink v L s).2 then .notify v else .none, .nothing⟩ := by
  simp only [portInject] at h
  split at h
  · cases h
  · cases h; exact ⟨(State.lineRefusal_eq_none s v L).1 ‹_›, rfl⟩

theorem collaborator_next {u L : Nat} {f : State → State} {s t : State} (h : collaborator u L f s = .next t) :
    s.LineReady u L ∧ (s.desc u L).linked = some u ∧ t = f s := by
  simp only [collaborator] at h
  split at h
  · cases h
  · split at h
    · cases h; exact ⟨(State.lineRefusal_eq_none s u L).1 ‹_›, ‹_›, rfl⟩
    · cases h

theorem portVisible_next {u L : Nat} {b : Bool} {s t : State} (h : portVisible u L b s = .next t) :
    s.LineReady u L ∧ (s.desc u L).linked = some u ∧ t = s.setDesc u L ((s.desc u L).setVisible b) :=
  collaborator_next h

theorem portActive_next {u L : Nat} {b : Bool} {s t : State} (h : portActive u L b s = .next t) :
    s.LineReady u L ∧ (s.desc u L).linked = some u ∧ t = s.setDesc u L ((s.desc u L).setActive b) :=
  collaborator_next h

theorem portRetire_next {u L : Nat} {s t : State} (h : portRetire u L s = .next t) :
    s.LineReady u L ∧ (s.desc u L).linked = some u ∧
    t = (s.setInflight u ((s.inflight u).erase L)).setDesc u L ((s.desc u L).retire) :=
  collaborator_next h

theorem portCreateDomain_next {c : Config} {s t : State} (h : portCreateDomain c s = .next t) :
    s.phase = .absent ∧ c.valid = true ∧ t = { State.created c with inputs := s.inputs, refusals := s.refusals } := by
  simp only [portCreateDomain] at h
  split at h
  · cases h
  · split at h
    · cases h; exact ⟨by simp_all, ‹_›, rfl⟩
    · cases h

/-- `CreateDomain` is refused where there is or was a domain, and with parameters outside R7 (log 12, 18). -/
theorem portCreateDomain_of_not_ready {c : Config} {s : State} (h : ¬ (s.phase = .absent ∧ c.valid = true)) :
    ∃ r, portCreateDomain c s = .refused (.port r) := by
  simp only [portCreateDomain]
  split
  · exact ⟨_, rfl⟩
  · split
    · simp_all
    · exact ⟨_, rfl⟩

theorem portCreateVcpu_next {v : Nat} {s t : State} (h : portCreateVcpu v s = .next t) :
    s.phase = .live ∧ s.terminated = false ∧ v < s.cfg.nvcpu ∧ (s.vcpuAt v).created = false ∧
    t = s.setVcpu v (VcpuState.fresh v) := by
  simp only [portCreateVcpu] at h
  split at h
  · cases h
  · split at h
    · cases h
    · split at h
      · cases h
      · split at h
        · cases h
        · cases h; simp_all

theorem portDestroyVcpu_next {v : Nat} {s t : State} (h : portDestroyVcpu v s = .next t) :
    (s.phase = .live ∧ s.terminated = false ∧ v < s.cfg.nvcpu ∧ (s.vcpuAt v).created = true) ∧
    s.tasks = [] ∧
    t = ({ s with spi := releaseShared s.spi (s.inflight v) }).setVcpu v VcpuState.absent := by
  simp only [portDestroyVcpu] at h
  split at h
  · cases h
  · split at h
    · cases h; exact ⟨(State.vcpuRefusal_eq_none s v).1 ‹_›, ‹_›, rfl⟩
    · cases h

theorem portDestroyDomain_next {s t : State} (h : portDestroyDomain s = .next t) :
    s.phase = .live ∧ s.tasks = [] ∧ t = { s with phase := .destroyed } := by
  simp only [portDestroyDomain] at h
  split at h
  · cases h
  · split at h
    · cases h; simp_all
    · cases h

theorem envStep_next {m : EnvMove} {s t : State} (h : envStep m s = .next t) :
    s.phase = .live ∧ m.vcpu < s.cfg.nvcpu ∧ t = s.setEnv m.vcpu (m.apply (s.envAt m.vcpu)) := by
  simp only [envStep] at h
  split at h
  · cases h
  · split at h
    · cases h; simp_all
    · cases h

/-! ### The step of the machine -/

theorem settle_next {s t : State} {r : Result} (h : settle s r = .next t) :
    r = .next t ∨ ∃ c, t = { s with refusals := s.refusals ++ [c] } := by
  simp only [settle] at h
  split at h
  · cases h; exact .inr ⟨_, rfl⟩
  · exact .inl h

/-- Everything a step can do: it stays as it is, takes an item off the stream, notes a refused call, lets an operation in
progress make its next step, or serves an access, a port operation or an environment move. -/
theorem step_next {s t : State} (h : step s = .next t) :
    t = s ∨ t = s.popInput ∨ (∃ c, t = { s.popInput with refusals := s.refusals ++ [c] }) ∨
    (∃ k, advance k s = .next t ∨ advance k s.popInput = .next t) ∨
    (∃ bs rest i, s.inputs = .access bs :: rest ∧ decode bs = .ok i ∧ exec i s.popInput = .next t) ∨
    (∃ op rest, s.inputs = .port op :: rest ∧ portStep op s.popInput = .next t) ∨
    (∃ m rest, s.inputs = .env m :: rest ∧ envStep m s.popInput = .next t) := by
  simp only [step] at h
  split at h
  · simp only [idleStep] at h
    split at h
    · cases h; exact .inl rfl
    · exact .inr (.inr (.inr (.inl ⟨0, .inl h⟩)))
  · split at h
    · cases h
    · split at h
      · exact .inr (.inr (.inr (.inl ⟨_, .inl h⟩)))
      · rcases settle_next h with h | ⟨c, h⟩
        · exact .inr (.inr (.inr (.inr (.inl ⟨_, _, _, ‹_›, ‹_›, h⟩))))
        · exact .inr (.inr (.inl ⟨c, h⟩))
  · rcases settle_next h with h | ⟨c, h⟩
    · exact .inr (.inr (.inr (.inr (.inr (.inl ⟨_, _, ‹_›, h⟩)))))
    · exact .inr (.inr (.inl ⟨c, h⟩))
  · rcases settle_next h with h | ⟨c, h⟩
    · exact .inr (.inr (.inr (.inr (.inr (.inr ⟨_, _, ‹_›, h⟩)))))
    · exact .inr (.inr (.inl ⟨c, h⟩))
  · exact .inr (.inr (.inr (.inl ⟨_, .inr h⟩)))
  · simp only [awaitStep] at h
    split at h
    · cases h; exact .inr (.inl rfl)
    · exact .inr (.inr (.inr (.inl ⟨0, .inl h⟩)))

end Sys2Proof.Machine
end

