-- ==== Sys2Proof/Laws/PerInstr.lean ====
section
/-! SUPPORT. What every encoded instruction carries, constructor by constructor: the accessor, the direction, the size
code and the byte lane of its access tuple (30_encoding.md R70). -/

namespace Sys2Proof

/-- The byte lane of an offset is the lane it was built with: the bases of R72 are word aligned. -/
theorem frameOffset_lane {k : Nat} (base : BitVec 12) (n : BitVec k) (l : BitVec 2)
    (h : base.extractLsb' 0 2 = 0#2) : (frameOffset base n l).extractLsb' 0 2 = l := by
  have h0 := congrArg (fun x : BitVec 2 => x.getLsbD 0) h
  have h1 := congrArg (fun x : BitVec 2 => x.getLsbD 1) h
  simp only [BitVec.getLsbD_extractLsb'] at h0 h1
  apply BitVec.eq_of_getLsbD_eq
  intro i hi
  simp only [frameOffset, BitVec.getLsbD_extractLsb', BitVec.getLsbD_or, BitVec.getLsbD_shiftLeft,
    BitVec.getLsbD_setWidth]
  have : i = 0 ∨ i = 1 := by omega
  rcases this with rfl | rfl <;> simp_all

/-- A write to SGIR is word aligned. -/
theorem sgirLane (v : Byte) (val : Word) : (sgirAccess v val).off.extractLsb' 0 2 = 0#2 := by
  simp only [sgirAccess]; decide

namespace Laws.AccessFields

/-- The access tuple of the instruction carries its accessor, direction, size code and byte lane (R70). -/
def Statement (i : Instr) : Prop :=
  i.access.v = i.accessor ∧ i.access.W = !i.isRead ∧ i.access.sz = i.size ∧
  i.access.off.extractLsb' 0 2 = i.byteLane

theorem rdRsvd (o : BitVec 10) (a : ReadArgs) : Statement (.rdRsvd o a) := ⟨rfl, rfl, rfl, frameOffset_lane _ _ _ rfl⟩

theorem rdRsvd7FC (a : ReadArgs) : Statement (.rdRsvd7FC a) := ⟨rfl, rfl, rfl, frameOffset_lane _ _ _ rfl⟩

theorem rdRsvdBFC (a : ReadArgs) : Statement (.rdRsvdBFC a) := ⟨rfl, rfl, rfl, frameOffset_lane _ _ _ rfl⟩

theorem rdCtlr (a : ReadArgs) : Statement (.rdCtlr a) := ⟨rfl, rfl, rfl, frameOffset_lane _ _ _ rfl⟩

theorem rdTyper (a : ReadArgs) : Statement (.rdTyper a) := ⟨rfl, rfl, rfl, frameOffset_lane _ _ _ rfl⟩

theorem rdIidr (a : ReadArgs) : Statement (.rdIidr a) := ⟨rfl, rfl, rfl, frameOffset_lane _ _ _ rfl⟩

theorem rdImpdef (n : BitVec 3) (a : ReadArgs) : Statement (.rdImpdef n a) := ⟨rfl, rfl, rfl, frameOffset_lane _ _ _ rfl⟩

theorem rdImpdefD00 (n : BitVec 6) (a : ReadArgs) : Statement (.rdImpdefD00 n a) := ⟨rfl, rfl, rfl, frameOffset_lane _ _ _ rfl⟩

theorem rdIgroupr (n : BitVec 5) (a : ReadArgs) : Statement (.rdIgroupr n a) := ⟨rfl, rfl, rfl, frameOffset_lane _ _ _ rfl⟩

theorem rdIsenabler (n : BitVec 5) (a : ReadArgs) : Statement (.rdIsenabler n a) := ⟨rfl, rfl, rfl, frameOffset_lane _ _ _ rfl⟩

theorem rdIcenabler (n : BitVec 5) (a : ReadArgs) : Statement (.rdIcenabler n a) := ⟨rfl, rfl, rfl, frameOffset_lane _ _ _ rfl⟩

theorem rdIspendr (n : BitVec 5) (a : ReadArgs) : Statement (.rdIspendr n a) := ⟨rfl, rfl, rfl, frameOffset_lane _ _ _ rfl⟩

theorem rdIcpendr (n : BitVec 5) (a : ReadArgs) : Statement (.rdIcpendr n a) := ⟨rfl, rfl, rfl, frameOffset_lane _ _ _ rfl⟩

theorem rdIsactiver (n : BitVec 5) (a : ReadArgs) : Statement (.rdIsactiver n a) := ⟨rfl, rfl, rfl, frameOffset_lane _ _ _ rfl⟩

theorem rdIcactiver (n : BitVec 5) (a : ReadArgs) : Statement (.rdIcactiver n a) := ⟨rfl, rfl, rfl, frameOffset_lane _ _ _ rfl⟩

theorem rdIpriorityr (n : BitVec 8) (a : ReadArgs) : Statement (.rdIpriorityr n a) := ⟨rfl, rfl, rfl, frameOffset_lane _ _ _ rfl⟩

theorem rdItargetsr (n : BitVec 8) (a : ReadArgs) : Statement (.rdItargetsr n a) := ⟨rfl, rfl, rfl, frameOffset_lane _ _ _ rfl⟩

theorem rdIcfgr (n : BitVec 6) (a : ReadArgs) : Statement (.rdIcfgr n a) := ⟨rfl, rfl, rfl, frameOffset_lane _ _ _ rfl⟩

theorem rdNsacr (n : BitVec 6) (a : ReadArgs) : Statement (.rdNsacr n a) := ⟨rfl, rfl, rfl, frameOffset_lane _ _ _ rfl⟩

theorem rdSgir (a : ReadArgs) : Statement (.rdSgir a) := ⟨rfl, rfl, rfl, frameOffset_lane _ _ _ rfl⟩

theorem rdCpendsgir (n : BitVec 2) (a : ReadArgs) : Statement (.rdCpendsgir n a) := ⟨rfl, rfl, rfl, frameOffset_lane _ _ _ rfl⟩

theorem rdSpendsgir (n : BitVec 2) (a : ReadArgs) : Statement (.rdSpendsgir n a) := ⟨rfl, rfl, rfl, frameOffset_lane _ _ _ rfl⟩

theorem rdPid (n : BitVec 2) (a : ReadArgs) : Statement (.rdPid n a) := ⟨rfl, rfl, rfl, frameOffset_lane _ _ _ rfl⟩

theorem rdPidFE0 (n : BitVec 3) (a : ReadArgs) : Statement (.rdPidFE0 n a) := ⟨rfl, rfl, rfl, frameOffset_lane _ _ _ rfl⟩

theorem wrRsvd (o : BitVec 10) (a : WriteArgs) : Statement (.wrRsvd o a) := ⟨rfl, rfl, rfl, frameOffset_lane _ _ _ rfl⟩

theorem wrRsvd7FC (a : WriteArgs) : Statement (.wrRsvd7FC a) := ⟨rfl, rfl, rfl, frameOffset_lane _ _ _ rfl⟩

theorem wrRsvdBFC (a : WriteArgs) : Statement (.wrRsvdBFC a) := ⟨rfl, rfl, rfl, frameOffset_lane _ _ _ rfl⟩

theorem wrCtlr (a : WriteArgs) : Statement (.wrCtlr a) := ⟨rfl, rfl, rfl, frameOffset_lane _ _ _ rfl⟩

theorem wrTyper (a : WriteArgs) : Statement (.wrTyper a) := ⟨rfl, rfl, rfl, frameOffset_lane _ _ _ rfl⟩

theorem wrIidr (a : WriteArgs) : Statement (.wrIidr a) := ⟨rfl, rfl, rfl, frameOffset_lane _ _ _ rfl⟩

theorem wrImpdef (n : BitVec 3) (a : WriteArgs) : Statement (.wrImpdef n a) := ⟨rfl, rfl, rfl, frameOffset_lane _ _ _ rfl⟩

theorem wrImpdefD00 (n : BitVec 6) (a : WriteArgs) : Statement (.wrImpdefD00 n a) := ⟨rfl, rfl, rfl, frameOffset_lane _ _ _ rfl⟩

theorem wrIgroupr (n : BitVec 5) (a : WriteArgs) : Statement (.wrIgroupr n a) := ⟨rfl, rfl, rfl, frameOffset_lane _ _ _ rfl⟩

theorem wrIsenabler (n : BitVec 5) (a : WriteArgs) : Statement (.wrIsenabler n a) := ⟨rfl, rfl, rfl, frameOffset_lane _ _ _ rfl⟩

theorem wrIcenabler (n : BitVec 5) (a : WriteArgs) : Statement (.wrIcenabler n a) := ⟨rfl, rfl, rfl, frameOffset_lane _ _ _ rfl⟩

theorem wrIspendr (n : BitVec 5) (a : WriteArgs) : Statement (.wrIspendr n a) := ⟨rfl, rfl, rfl, frameOffset_lane _ _ _ rfl⟩

theorem wrIcpendr (n : BitVec 5) (a : WriteArgs) : Statement (.wrIcpendr n a) := ⟨rfl, rfl, rfl, frameOffset_lane _ _ _ rfl⟩

theorem wrIsactiver (n : BitVec 5) (a : WriteArgs) : Statement (.wrIsactiver n a) := ⟨rfl, rfl, rfl, frameOffset_lane _ _ _ rfl⟩

theorem wrIcactiver (n : BitVec 5) (a : WriteArgs) : Statement (.wrIcactiver n a) := ⟨rfl, rfl, rfl, frameOffset_lane _ _ _ rfl⟩

theorem wrIpriorityr (n : BitVec 8) (a : WriteArgs) : Statement (.wrIpriorityr n a) := ⟨rfl, rfl, rfl, frameOffset_lane _ _ _ rfl⟩

theorem wrItargetsr (n : BitVec 8) (a : WriteArgs) : Statement (.wrItargetsr n a) := ⟨rfl, rfl, rfl, frameOffset_lane _ _ _ rfl⟩

theorem wrItargetsrRo (n : BitVec 3) (a : WriteArgs) : Statement (.wrItargetsrRo n a) := ⟨rfl, rfl, rfl, frameOffset_lane _ _ _ rfl⟩

theorem wrIcfgr (n : BitVec 6) (a : WriteArgs) : Statement (.wrIcfgr n a) := ⟨rfl, rfl, rfl, frameOffset_lane _ _ _ rfl⟩

theorem wrIcfgrRo (n : BitVec 1) (a : WriteArgs) : Statement (.wrIcfgrRo n a) := ⟨rfl, rfl, rfl, frameOffset_lane _ _ _ rfl⟩

theorem wrNsacr (n : BitVec 6) (a : WriteArgs) : Statement (.wrNsacr n a) := ⟨rfl, rfl, rfl, frameOffset_lane _ _ _ rfl⟩

theorem wrSgir (a : WriteArgs) : Statement (.wrSgir a) := ⟨rfl, rfl, rfl, frameOffset_lane _ _ _ rfl⟩

theorem wrCpendsgir (n : BitVec 2) (a : WriteArgs) : Statement (.wrCpendsgir n a) := ⟨rfl, rfl, rfl, frameOffset_lane _ _ _ rfl⟩

theorem wrSpendsgir (n : BitVec 2) (a : WriteArgs) : Statement (.wrSpendsgir n a) := ⟨rfl, rfl, rfl, frameOffset_lane _ _ _ rfl⟩

theorem wrPid (n : BitVec 2) (a : WriteArgs) : Statement (.wrPid n a) := ⟨rfl, rfl, rfl, frameOffset_lane _ _ _ rfl⟩

theorem wrPidFE0 (n : BitVec 3) (a : WriteArgs) : Statement (.wrPidFE0 n a) := ⟨rfl, rfl, rfl, frameOffset_lane _ _ _ rfl⟩

theorem wrSgirList (v list : Byte) (id : BitVec 4) : Statement (.wrSgirList v list id) := ⟨rfl, rfl, rfl, sgirLane _ _⟩

theorem wrSgirOthers (v : Byte) (id : BitVec 4) : Statement (.wrSgirOthers v id) := ⟨rfl, rfl, rfl, sgirLane _ _⟩

theorem wrSgirSelf (v : Byte) (id : BitVec 4) : Statement (.wrSgirSelf v id) := ⟨rfl, rfl, rfl, sgirLane _ _⟩

theorem wrSgirRsvd (v : Byte) (val : Word) : Statement (.wrSgirRsvd v val) := ⟨rfl, rfl, rfl, sgirLane _ _⟩

end Laws.AccessFields

end Sys2Proof
end

