-- ==== Sys2Proof/Tests/Slice0.lean ====
section
/-! SUPPORT. The model's own tests: a word written out from the spec for every constructor, the well-formedness checks,
single steps with the results of 95_test_vectors.md, and a witness for the hypotheses of every statement of
Certificates/Slice0/Obligations.lean. Nothing here is a claim. -/

namespace Sys2Proof.Tests

open Sys2Proof Sys2Proof.Machine

-- The invariants are decidable, with more class applications than Lean looks for at once by default.
set_option synthInstance.maxSize 1024

/-! ### Small states -/

/-- A new domain with vCPUs 0 and 1 created. -/
def newDomain (c : Config) : State := ((State.created c).setVcpu 0 (VcpuState.fresh 0)).setVcpu 1 (VcpuState.fresh 1)

/-- CFG0 with nine shared lines, 32 to 40: rank 1 is present and partly invalid, rank 2 is absent. -/
def smallConfig : Config := { Config.cfg0 with nrSpi := 9 }

/-- A small domain. -/
def dom : State := newDomain smallConfig

/-- The small domain with one operation in progress. -/
def busy (x : Task) : State := { dom with tasks := [x] }

/-- The small domain with line `L` in the list of vCPU `v`, and nothing emitted. -/
def listed (v L : Nat) : State := (injectLink v L dom).1

/-- An aligned word read by vCPU 0. -/
def rw : ReadArgs := ⟨0#8, .word, false, 0#2⟩

/-- An aligned word write by vCPU 0. -/
def ww (val : Word) : WriteArgs := ⟨0#8, .word, 0#2, val⟩

/-- What an answer that is a next state shows of it. -/
def seen {α : Type} (r : Result) (f : State → α) : Option α :=
  match r with
  | .next t => some (f t)
  | .fault _ => none
  | .refused _ => none

/-! ### Decoding: the words of every constructor, written out from the register map of 30_encoding.md R72 and the value
formats of R78 and R79 (bytes: key low, key high, size and sign, accessor, value low byte first; log 6) -/

theorem test_decode_control :
    decode [0x00#8, 0x00#8, 0x02#8, 0x00#8, 0x00#8, 0x00#8, 0x00#8, 0x00#8] =
      .ok (.rdCtlr ⟨0#8, .word, false, 0#2⟩) ∧
    decode [0x04#8, 0x00#8, 0x02#8, 0x01#8, 0x00#8, 0x00#8, 0x00#8, 0x00#8] =
      .ok (.rdTyper ⟨1#8, .word, false, 0#2⟩) ∧
    decode [0x08#8, 0x00#8, 0x02#8, 0x00#8, 0x00#8, 0x00#8, 0x00#8, 0x00#8] =
      .ok (.rdIidr ⟨0#8, .word, false, 0#2⟩) ∧
    decode [0x00#8, 0x10#8, 0x02#8, 0x00#8, 0xFF#8, 0xFF#8, 0xFF#8, 0xFF#8] =
      .ok (.wrCtlr ⟨0#8, .word, 0#2, 0xFFFFFFFF#32⟩) ∧
    decode [0x04#8, 0x10#8, 0x02#8, 0x00#8, 0x01#8, 0x00#8, 0x00#8, 0x00#8] =
      .ok (.wrTyper ⟨0#8, .word, 0#2, 0x1#32⟩) ∧
    decode [0x0B#8, 0x10#8, 0x00#8, 0x00#8, 0x01#8, 0x00#8, 0x00#8, 0x00#8] =
      .ok (.wrIidr ⟨0#8, .byte, 3#2, 0x1#32⟩) := by
  refine ⟨rfl, rfl, rfl, rfl, rfl, rfl⟩

theorem test_decode_reserved :
    decode [0x7C#8, 0x00#8, 0x02#8, 0x00#8, 0x00#8, 0x00#8, 0x00#8, 0x00#8] =
      .ok (.rdRsvd 31#10 ⟨0#8, .word, false, 0#2⟩) ∧
    decode [0xFC#8, 0x07#8, 0x02#8, 0x00#8, 0x00#8, 0x00#8, 0x00#8, 0x00#8] =
      .ok (.rdRsvd7FC ⟨0#8, .word, false, 0#2⟩) ∧
    decode [0xFF#8, 0x0B#8, 0x00#8, 0x00#8, 0x00#8, 0x00#8, 0x00#8, 0x00#8] =
      .ok (.rdRsvdBFC ⟨0#8, .byte, false, 3#2⟩) ∧
    decode [0x3C#8, 0x00#8, 0x02#8, 0x00#8, 0x00#8, 0x00#8, 0x00#8, 0x00#8] =
      .ok (.rdImpdef 7#3 ⟨0#8, .word, false, 0#2⟩) ∧
    decode [0xFC#8, 0x0D#8, 0x02#8, 0x00#8, 0x00#8, 0x00#8, 0x00#8, 0x00#8] =
      .ok (.rdImpdefD00 63#6 ⟨0#8, .word, false, 0#2⟩) ∧
    decode [0xD4#8, 0x0F#8, 0x02#8, 0x00#8, 0x00#8, 0x00#8, 0x00#8, 0x00#8] =
      .ok (.rdPid 1#2 ⟨0#8, .word, false, 0#2⟩) ∧
    decode [0xFC#8, 0x0F#8, 0x02#8, 0x00#8, 0x00#8, 0x00#8, 0x00#8, 0x00#8] =
      .ok (.rdPidFE0 7#3 ⟨0#8, .word, false, 0#2⟩) ∧
    decode [0xCC#8, 0x1F#8, 0x02#8, 0x00#8, 0x02#8, 0x00#8, 0x00#8, 0x00#8] =
      .ok (.wrRsvd 1011#10 ⟨0#8, .word, 0#2, 0x2#32⟩) ∧
    decode [0xFC#8, 0x17#8, 0x02#8, 0x00#8, 0x03#8, 0x00#8, 0x00#8, 0x00#8] =
      .ok (.wrRsvd7FC ⟨0#8, .word, 0#2, 0x3#32⟩) ∧
    decode [0xFC#8, 0x1B#8, 0x02#8, 0x01#8, 0x04#8, 0x00#8, 0x00#8, 0x00#8] =
      .ok (.wrRsvdBFC ⟨1#8, .word, 0#2, 0x4#32⟩) ∧
    decode [0x20#8, 0x10#8, 0x02#8, 0x00#8, 0x05#8, 0x00#8, 0x00#8, 0x00#8] =
      .ok (.wrImpdef 0#3 ⟨0#8, .word, 0#2, 0x5#32⟩) ∧
    decode [0x00#8, 0x1D#8, 0x02#8, 0x00#8, 0x78#8, 0x56#8, 0x34#8, 0x12#8] =
      .ok (.wrImpdefD00 0#6 ⟨0#8, .word, 0#2, 0x12345678#32⟩) ∧
    decode [0xDC#8, 0x1F#8, 0x02#8, 0x00#8, 0x01#8, 0x00#8, 0x00#8, 0x00#8] =
      .ok (.wrPid 3#2 ⟨0#8, .word, 0#2, 0x1#32⟩) ∧
    decode [0xE8#8, 0x1F#8, 0x02#8, 0x00#8, 0x00#8, 0x00#8, 0x00#8, 0x00#8] =
      .ok (.wrPidFE0 2#3 ⟨0#8, .word, 0#2, 0x0#32⟩) := by
  refine ⟨rfl, rfl, rfl, rfl, rfl, rfl, rfl, rfl, rfl, rfl, rfl, rfl, rfl, rfl⟩

theorem test_decode_ignored :
    decode [0xFC#8, 0x00#8, 0x02#8, 0x00#8, 0x00#8, 0x00#8, 0x00#8, 0x00#8] =
      .ok (.rdIgroupr 31#5 ⟨0#8, .word, false, 0#2⟩) ∧
    decode [0xFC#8, 0x0E#8, 0x02#8, 0x00#8, 0x00#8, 0x00#8, 0x00#8, 0x00#8] =
      .ok (.rdNsacr 63#6 ⟨0#8, .word, false, 0#2⟩) ∧
    decode [0x84#8, 0x10#8, 0x02#8, 0x00#8, 0xFF#8, 0xFF#8, 0xFF#8, 0xFF#8] =
      .ok (.wrIgroupr 1#5 ⟨0#8, .word, 0#2, 0xFFFFFFFF#32⟩) ∧
    decode [0x00#8, 0x1E#8, 0x02#8, 0x00#8, 0x01#8, 0x00#8, 0x00#8, 0x00#8] =
      .ok (.wrNsacr 0#6 ⟨0#8, .word, 0#2, 0x1#32⟩) := by
  refine ⟨rfl, rfl, rfl, rfl⟩

theorem test_decode_enable :
    decode [0x04#8, 0x01#8, 0x02#8, 0x00#8, 0x00#8, 0x00#8, 0x00#8, 0x00#8] =
      .ok (.rdIsenabler 1#5 ⟨0#8, .word, false, 0#2⟩) ∧
    decode [0xFC#8, 0x01#8, 0x02#8, 0x00#8, 0x00#8, 0x00#8, 0x00#8, 0x00#8] =
      .ok (.rdIcenabler 31#5 ⟨0#8, .word, false, 0#2⟩) ∧
    decode [0x04#8, 0x11#8, 0x02#8, 0x01#8, 0x00#8, 0x01#8, 0x00#8, 0x00#8] =
      .ok (.wrIsenabler 1#5 ⟨1#8, .word, 0#2, 0x100#32⟩) ∧
    decode [0x80#8, 0x11#8, 0x02#8, 0x00#8, 0x20#8, 0x00#8, 0x00#8, 0x00#8] =
      .ok (.wrIcenabler 0#5 ⟨0#8, .word, 0#2, 0x20#32⟩) := by
  refine ⟨rfl, rfl, rfl, rfl⟩

theorem test_decode_pending :
    decode [0x01#8, 0x02#8, 0x00#8, 0x00#8, 0x00#8, 0x00#8, 0x00#8, 0x00#8] =
      .ok (.rdIspendr 0#5 ⟨0#8, .byte, false, 1#2⟩) ∧
    decode [0xFF#8, 0x02#8, 0x04#8, 0x00#8, 0x00#8, 0x00#8, 0x00#8, 0x00#8] =
      .ok (.rdIcpendr 31#5 ⟨0#8, .byte, true, 3#2⟩) ∧
    decode [0x03#8, 0x12#8, 0x00#8, 0x00#8, 0x01#8, 0x00#8, 0x00#8, 0x00#8] =
      .ok (.wrIspendr 0#5 ⟨0#8, .byte, 3#2, 0x1#32⟩) ∧
    decode [0x84#8, 0x12#8, 0x02#8, 0x00#8, 0xFF#8, 0xFF#8, 0xFF#8, 0xFF#8] =
      .ok (.wrIcpendr 1#5 ⟨0#8, .word, 0#2, 0xFFFFFFFF#32⟩) ∧
    decode [0x1F#8, 0x0F#8, 0x00#8, 0x00#8, 0x00#8, 0x00#8, 0x00#8, 0x00#8] =
      .ok (.rdCpendsgir 3#2 ⟨0#8, .byte, false, 3#2⟩) ∧
    decode [0x2C#8, 0x0F#8, 0x02#8, 0x00#8, 0x00#8, 0x00#8, 0x00#8, 0x00#8] =
      .ok (.rdSpendsgir 3#2 ⟨0#8, .word, false, 0#2⟩) ∧
    decode [0x10#8, 0x1F#8, 0x02#8, 0x00#8, 0x01#8, 0x01#8, 0x01#8, 0x01#8] =
      .ok (.wrCpendsgir 0#2 ⟨0#8, .word, 0#2, 0x1010101#32⟩) ∧
    decode [0x21#8, 0x1F#8, 0x00#8, 0x00#8, 0x01#8, 0x00#8, 0x00#8, 0x00#8] =
      .ok (.wrSpendsgir 0#2 ⟨0#8, .byte, 1#2, 0x1#32⟩) := by
  refine ⟨rfl, rfl, rfl, rfl, rfl, rfl, rfl, rfl⟩

theorem test_decode_active :
    decode [0x00#8, 0x03#8, 0x02#8, 0x00#8, 0x00#8, 0x00#8, 0x00#8, 0x00#8] =
      .ok (.rdIsactiver 0#5 ⟨0#8, .word, false, 0#2⟩) ∧
    decode [0xFC#8, 0x03#8, 0x02#8, 0x00#8, 0x00#8, 0x00#8, 0x00#8, 0x00#8] =
      .ok (.rdIcactiver 31#5 ⟨0#8, .word, false, 0#2⟩) ∧
    decode [0x04#8, 0x13#8, 0x02#8, 0x00#8, 0x07#8, 0x00#8, 0x00#8, 0x00#8] =
      .ok (.wrIsactiver 1#5 ⟨0#8, .word, 0#2, 0x7#32⟩) ∧
    decode [0x80#8, 0x13#8, 0x02#8, 0x00#8, 0xFF#8, 0xFF#8, 0xFF#8, 0xFF#8] =
      .ok (.wrIcactiver 0#5 ⟨0#8, .word, 0#2, 0xFFFFFFFF#32⟩) := by
  refine ⟨rfl, rfl, rfl, rfl⟩

theorem test_decode_lines :
    decode [0xF8#8, 0x07#8, 0x02#8, 0x00#8, 0x00#8, 0x00#8, 0x00#8, 0x00#8] =
      .ok (.rdIpriorityr 254#8 ⟨0#8, .word, false, 0#2⟩) ∧
    decode [0x03#8, 0x08#8, 0x04#8, 0x01#8, 0x00#8, 0x00#8, 0x00#8, 0x00#8] =
      .ok (.rdItargetsr 0#8 ⟨1#8, .byte, true, 3#2⟩) ∧
    decode [0xFC#8, 0x0C#8, 0x02#8, 0x00#8, 0x00#8, 0x00#8, 0x00#8, 0x00#8] =
      .ok (.rdIcfgr 63#6 ⟨0#8, .word, false, 0#2⟩) ∧
    decode [0x2B#8, 0x14#8, 0x00#8, 0x00#8, 0x40#8, 0x00#8, 0x00#8, 0x00#8] =
      .ok (.wrIpriorityr 10#8 ⟨0#8, .byte, 3#2, 0x40#32⟩) ∧
    decode [0x20#8, 0x18#8, 0x02#8, 0x00#8, 0x01#8, 0x20#8, 0x40#8, 0x80#8] =
      .ok (.wrItargetsr 8#8 ⟨0#8, .word, 0#2, 0x80402001#32⟩) ∧
    decode [0x1F#8, 0x18#8, 0x00#8, 0x00#8, 0xFF#8, 0x00#8, 0x00#8, 0x00#8] =
      .ok (.wrItargetsrRo 7#3 ⟨0#8, .byte, 3#2, 0xFF#32⟩) ∧
    decode [0x08#8, 0x1C#8, 0x02#8, 0x00#8, 0xAA#8, 0xAA#8, 0xAA#8, 0xAA#8] =
      .ok (.wrIcfgr 2#6 ⟨0#8, .word, 0#2, 0xAAAAAAAA#32⟩) ∧
    decode [0x04#8, 0x1C#8, 0x02#8, 0x00#8, 0xFF#8, 0xFF#8, 0xFF#8, 0xFF#8] =
      .ok (.wrIcfgrRo 1#1 ⟨0#8, .word, 0#2, 0xFFFFFFFF#32⟩) := by
  refine ⟨rfl, rfl, rfl, rfl, rfl, rfl, rfl, rfl⟩

theorem test_decode_sgi :
    decode [0x00#8, 0x0F#8, 0x02#8, 0x00#8, 0x00#8, 0x00#8, 0x00#8, 0x00#8] =
      .ok (.rdSgir ⟨0#8, .word, false, 0#2⟩) ∧
    decode [0x00#8, 0x1F#8, 0x00#8, 0x00#8, 0x03#8, 0x00#8, 0x00#8, 0x00#8] =
      .ok (.wrSgir ⟨0#8, .byte, 0#2, 0x3#32⟩) ∧
    decode [0x00#8, 0x1F#8, 0x02#8, 0x01#8, 0x0C#8, 0x00#8, 0x0F#8, 0x00#8] =
      .ok (.wrSgirList 1#8 0x0F#8 12#4) ∧
    decode [0x00#8, 0x1F#8, 0x02#8, 0x00#8, 0x02#8, 0x00#8, 0x00#8, 0x01#8] =
      .ok (.wrSgirOthers 0#8 2#4) ∧
    decode [0x00#8, 0x1F#8, 0x02#8, 0x02#8, 0x0F#8, 0x00#8, 0x00#8, 0x02#8] =
      .ok (.wrSgirSelf 2#8 15#4) ∧
    decode [0x00#8, 0x1F#8, 0x02#8, 0x00#8, 0x0F#8, 0x00#8, 0xFF#8, 0x03#8] =
      .ok (.wrSgirRsvd 0#8 0x03FF000F#32) := by
  refine ⟨rfl, rfl, rfl, rfl, rfl, rfl⟩

/-! ### WellFormed: an ill-formed term for each check, which the check refuses -/

theorem test_wf_reserved_offset : ¬ (Instr.rdRsvd 0#10 rw).WF ∧ ¬ (Instr.wrRsvd 64#10 (ww 0#32)).WF := by decide
theorem test_wf_last_priority_word : ¬ (Instr.rdIpriorityr 255#8 rw).WF ∧ ¬ (Instr.wrIpriorityr 255#8 (ww 0#32)).WF := by
  decide
theorem test_wf_last_target_word : ¬ (Instr.rdItargetsr 255#8 rw).WF ∧ ¬ (Instr.wrItargetsr 255#8 (ww 0#32)).WF := by
  decide
theorem test_wf_private_target_word : ¬ (Instr.wrItargetsr 7#8 (ww 0#32)).WF := by decide
theorem test_wf_private_config_word : ¬ (Instr.wrIcfgr 1#6 (ww 0#32)).WF := by decide
theorem test_wf_sgir_aligned_word : ¬ (Instr.wrSgir (ww 0#32)).WF := by decide
theorem test_wf_sgir_reserved_filter : ¬ (Instr.wrSgirRsvd 0#8 0x02000000#32).WF := by decide

/-! ### Bytes that are no access tuple (log 7) -/

theorem test_decode_short : decode [0x00#8, 0x00#8, 0x02#8] = .error .badLength := by rfl
theorem test_decode_outside_frame :
    decode [0x00#8, 0x20#8, 0x02#8, 0x00#8, 0x00#8, 0x00#8, 0x00#8, 0x00#8] = .error .offsetOutsideFrame := by rfl
theorem test_decode_reserved_bits :
    decode [0x00#8, 0x00#8, 0x0A#8, 0x00#8, 0x00#8, 0x00#8, 0x00#8, 0x00#8] = .error .reservedBits := by rfl

/-! ### One step, with results from the vectors of 95_test_vectors.md -/

/-- The state of CFG0 with both vCPUs created (95_test_vectors.md, Conventions). -/
def cfg0Domain : State := newDomain Config.cfg0

/-- CFG1: 40 shared lines, so that rank 2 holds the valid lines 64 to 71 only. -/
def cfg1Domain : State := newDomain { Config.cfg0 with nrSpi := 40, backing := [] }

/-- CFG4: four vCPUs in the domain, of which two are created here. -/
def cfg4Domain : State := newDomain { Config.cfg0 with nvcpu := 4, backing := [] }

-- S1
theorem test_ctlr_keeps_bit_zero : seen (exec (.wrCtlr (ww 0xFFFFFFFF#32)) cfg0Domain) State.ctlr = some 1#1 := by
  decide

-- S4: the byte write is Fatal and leaves the bit.
theorem test_ctlr_byte_is_fatal :
    seen (exec (.wrCtlr ⟨0#8, .byte, 0#2, 0#32⟩) { cfg0Domain with ctlr := 1#1 })
      (fun t => (t.terminated, t.ctlr, t.history, t.replies)) =
    some (true, 1#1, [.domainCrash], [⟨0, .fatal⟩]) := by decide

theorem test_rdCtlr :
    seen (exec (.rdCtlr rw) { cfg0Domain with ctlr := 1#1 }) State.replies = some [⟨0, .handledRead 1#32⟩] := by decide

-- V-ID-1
theorem test_rdTyper : seen (exec (.rdTyper rw) cfg0Domain) State.replies = some [⟨0, .handledRead 0x22#32⟩] := by
  decide

-- V-ID-4
theorem test_rdIidr : seen (exec (.rdIidr rw) cfg0Domain) State.replies = some [⟨0, .handledRead 0x43B#32⟩] := by
  decide

-- V-ID-12, V-ID-13
theorem test_rdPid : seen (exec (.rdPid 0#2 rw) cfg0Domain) State.replies = some [⟨0, .unhandled⟩] := by decide
theorem test_wrPid : seen (exec (.wrPid 0#2 (ww 1#32)) cfg0Domain) State.replies = some [⟨0, .handled⟩] := by decide

-- S5 row 3, row 4: an absent rank is benign at every width.
theorem test_absent_read :
    seen (exec (.rdIsenabler 3#5 ⟨0#8, .half, false, 2#2⟩) cfg1Domain) State.replies =
    some [⟨0, .handledRead 0#32⟩] := by decide
theorem test_absent_write :
    seen (exec (.wrIsenabler 3#5 ⟨0#8, .dword, 0#2, 1#32⟩) cfg1Domain) (fun t => (t.replies, t.terminated)) =
    some ([⟨0, .handled⟩], false) := by decide

-- S5 row 14: only the valid lines of a rank are enabled.
theorem test_wrIsenabler_valid :
    seen (exec (.wrIsenabler 2#5 (ww 0xFFFFFFFF#32)) cfg1Domain)
      (fun t => ((t.rankAt 1 2).enable, t.tasks.map Task.work)) =
    some (0xFF#32, [.enable 0 0xFF#32 2]) := by decide

-- V-EN-6: only line 1 is newly disabled.
theorem test_wrIcenabler :
    seen (exec (.wrIcenabler 0#5 (ww 6#32)) (cfg0Domain.setRank 0 0 { Rank.ofVcpu 0 with enable := 0xB#32 }))
      (fun t => ((t.rankAt 0 0).enable, t.tasks.map Task.work)) = some (9#32, [.disable 0 2#32 0]) := by decide

-- V-EN-9: a bit that is set already drives no step.
theorem test_wrIsenabler_set :
    seen (exec (.wrIsenabler 1#5 (ww 0x100#32)) (cfg0Domain.setRank 0 1 { Rank.zero with enable := 0x101#32 }))
      (fun t => (t.tasks, t.replies)) = some ([], [⟨0, .handled⟩]) := by decide

-- V-PR-5: sign extension of a byte read.
theorem test_rdIpriorityr_signed :
    seen (exec (.rdIpriorityr 1#8 ⟨0#8, .byte, true, 0#2⟩)
      (cfg0Domain.setRank 0 0 { Rank.zero with priority := Rank.zero.priority.setIfInBounds 4 0xA0#8 })) State.replies =
    some [⟨0, .handledRead 0xFFFFFFA0#32⟩] := by decide

-- V-PR-7, V-PR-9: lanes of a word write, and a byte write of one lane.
theorem test_wrIpriorityr_word :
    seen (exec (.wrIpriorityr 8#8 ⟨1#8, .word, 0#2, 0xFFEEDDCC#32⟩) cfg0Domain)
      (fun t => pack (t.rankAt 0 1).priority 0) = some 0xFFEEDDCC#32 := by decide
theorem test_wrIpriorityr_byte :
    seen (exec (.wrIpriorityr 8#8 ⟨0#8, .byte, 3#2, 0x01#32⟩)
      (cfg0Domain.setRank 0 1 { Rank.zero with priority := Vector.replicate 32 0xEE#8 }))
      (fun t => pack (t.rankAt 0 1).priority 0) = some 0x01EEEEEE#32 := by decide

-- V-TG-1, V-TG-3, V-TG-9
theorem test_rdItargetsr :
    seen (exec (.rdItargetsr 7#8 ⟨1#8, .word, false, 0#2⟩) cfg0Domain) State.replies =
    some [⟨1, .handledRead 0x02020202#32⟩] := by decide
theorem test_wrItargetsrRo :
    seen (exec (.wrItargetsrRo 0#3 (ww 0xFFFFFFFF#32)) cfg0Domain) (fun t => pack (t.rankAt 0 0).target 0) =
    some 0x01010101#32 := by decide
theorem test_wrItargetsr_invalid :
    seen (exec (.wrItargetsr 18#8 (ww 0x01020304#32)) cfg1Domain) (fun t => pack (t.rankAt 0 2).target 2) =
    some 0#32 := by decide
theorem test_wrItargetsr_valid :
    seen (exec (.wrItargetsr 17#8 (ww 0x01020304#32)) cfg1Domain) (fun t => pack (t.rankAt 0 2).target 1) =
    some 0x01020304#32 := by decide

-- S5 row 20, V-CF-1
theorem test_wrIcfgr_valid :
    seen (exec (.wrIcfgr 4#6 (ww 0xFFFFFFFF#32)) cfg1Domain) (fun t => (t.rankAt 0 2).config) =
    some #v[0x0000FFFF#32, 0#32] := by decide
theorem test_wrIcfgrRo :
    seen (exec (.wrIcfgrRo 0#1 (ww 0xFFFFFFFF#32)) cfg0Domain) (fun t => (t.rankAt 0 0).config) =
    some #v[0#32, 0#32] := by decide

-- V-PA-7, V-PA-10
theorem test_wrIspendr : seen (exec (.wrIspendr 1#5 (ww 1#32)) cfg0Domain) State.replies = some [⟨0, .unhandled⟩] := by
  decide
theorem test_wrSpendsgir :
    seen (exec (.wrSpendsgir 0#2 ⟨0#8, .byte, 1#2, 1#32⟩) cfg0Domain) State.replies = some [⟨0, .unhandled⟩] := by
  decide

-- R161, R171, worked by hand on a rank with the bits set
theorem test_wrIcactiver :
    seen (exec (.wrIcactiver 0#5 (ww 0xFF00#32)) (cfg0Domain.setRank 0 0 { Rank.zero with active := 0xF0F0#32 }))
      (fun t => (t.rankAt 0 0).active) = some 0x00F0#32 := by decide
theorem test_rdSpendsgir_byte :
    seen (exec (.rdSpendsgir 1#2 ⟨0#8, .byte, false, 2#2⟩)
      (cfg0Domain.setRank 0 0 { Rank.zero with pendsgi := Rank.zero.pendsgi.setIfInBounds 6 0x81#8 })) State.replies =
    some [⟨0, .handledRead 0x81#32⟩] := by decide

-- V-W-15: no SGI is sent.
theorem test_wrSgir_byte :
    seen (exec (.wrSgir ⟨0#8, .byte, 0#2, 3#32⟩) cfg0Domain) (fun t => (t.terminated, t.tasks)) = some (true, []) := by
  decide

-- V-SG-2 (candidates 0, 2, 3), S3, V-SG-4
theorem test_wrSgirOthers :
    seen (exec (.wrSgirOthers 1#8 2#4) cfg4Domain) (fun t => t.tasks.map Task.work) = some [.fanOut 0b1101#8 2] := by
  decide
theorem test_wrSgirSelf :
    seen (exec (.wrSgirSelf 0#8 3#4) cfg0Domain) (fun t => t.tasks.map Task.work) = some [.fanOut 0b01#8 3] := by decide
theorem test_wrSgirRsvd :
    seen (exec (.wrSgirRsvd 0#8 0x03000004#32) cfg0Domain) (fun t => (t.history, t.replies, t.tasks)) =
    some ([.diagBadFilter 0x03000004#32], [⟨0, .handled⟩], []) := by decide

-- V-SG-6: a target outside the domain; V-SG-1: a target to inject
theorem test_bad_target :
    seen (advance 0 (busy ⟨some 0, none, .none, .fanOut 0xF0#8 1⟩)) (fun t => (t.history, t.tasks.map Task.work)) =
    some ([.diagBadTarget 4], [.fanOut 0xE0#8 1]) := by decide
theorem test_good_target :
    seen (advance 0 (busy ⟨some 0, none, .none, .fanOut 0x01#8 7⟩)) (fun t => (t.history, t.tasks.map Task.inj)) =
    some ([], [.link 0 7]) := by decide

-- S2: 0x40 goes before the first 0x80 and after 0x10
theorem test_insert_order :
    insertByPrio (fun x => if x = 41 then 0x10#8 else if x = 43 then 0x40#8 else 0x80#8) [41, 40, 42] 43 0x40#8 =
    [41, 43, 40, 42] := by decide

-- S6 row 3, S7 row 5
theorem test_inject_coalesces :
    seen (portStep (.inject 0 5 none) (listed 0 5)) (fun t => (t.inflight 0, t.history)) =
    some ([5], [.piReraise 0 5]) := by decide
theorem test_inject_offline :
    seen (portStep (.inject 1 6 none) (dom.setEnv 1 { VcpuEnv.initial with online := false, blocked := true }))
      (fun t => (t.inflight 1, t.history, t.tasks)) = some ([], [], []) := by decide

-- S8 row 2: re-raise of a linked line; S8 row 8: the disable names the holder, not the accessor
theorem test_enable_reraises :
    seen (advance 0 { listed 0 5 with tasks := [⟨some 0, none, .none, .enable 0 0x20#32 0⟩] })
      (fun t => (t.history, t.inflight 0, t.replies)) = some ([.piReraise 0 5], [5], [⟨0, .handled⟩]) := by decide
theorem test_disable_names_holder :
    seen (advance 0 { listed 1 40 with tasks := [⟨some 0, none, .none, .disable 0 0x100#32 1⟩] })
      (fun t => (t.history, t.inflight 1)) =
    some ([.piRemoveFromQueues 1 40, .piDisablePhys 72], []) := by decide

-- V-EN-17: the event-channel line is to be injected next
theorem test_enable_forces_injection :
    seen (advance 0 { busy ⟨some 0, none, .none, .enable 0 0x80000000#32 0⟩ with
        env := [{ VcpuEnv.initial with upcall := true }, VcpuEnv.initial] })
      (fun t => (t.history, t.tasks.map Task.inj)) = some ([], [.link 0 31]) := by decide

-- V-IN-5, V-IN-7: the caller's processor is not notified; both conditions may hold
theorem test_notify_same_processor :
    notifyEvents 1 (some 3) (dom.setEnv 1 { VcpuEnv.initial with runningOn := some 3 }) = [] := by decide
theorem test_notify_and_wake :
    notifyEvents 1 none (dom.setEnv 1 { VcpuEnv.initial with runningOn := some 2, blocked := true }) =
    [.notify 2, .wake 1] := by decide

-- R336, D38: an operation in progress that has nothing to do with vCPU 1 still keeps it from being torn down
theorem test_destroyVcpu_in_progress :
    portStep (.destroyVcpu 1) (busy ⟨none, none, .notify 0, .nothing⟩) = .refused (.port .inProgress) := by
  rfl

-- V-CI-9, V-LC-4, V-LC-7
theorem test_retire :
    seen (portStep (.ciRetire 0 3) ((listed 0 3).setInflight 0 [3, 5])) (fun t => (t.inflight 0, (t.desc 0 3).linked)) =
    some ([5], none) := by decide
theorem test_destroyVcpu :
    seen (portStep (.destroyVcpu 1) (listed 1 40)) (fun t => (t.inflight 1, t.desc 0 40)) =
    some ([], Descriptor.zero) := by decide
theorem test_createVcpu :
    seen (portStep (.createVcpu 1) (dom.setVcpu 1 VcpuState.absent)) (fun t => pack (t.rankAt 1 0).target 0) =
    some 0x02020202#32 := by decide

-- The first instruction after reset, given as a table word: RD.ISENABLER word 1 as a byte read is Fatal (R123).
theorem test_withFetchWord :
    seen (step (State.reset.withFetchWord 13 0x0104)) State.replies = some [⟨0, .fatal⟩] := by decide
theorem test_withFetchWord_value :
    seen (step (State.reset.withFetchWord 32 0x03000004)) State.history = some [.diagBadFilter 0x03000004#32] := by
  decide

/-! ### Witnesses: a concrete state and operands that meet the hypotheses of each statement, clause by clause -/

theorem test_witness_DecodeEncodeAgree :
    (Instr.wrItargetsr 254#8 ⟨255#8, .byte, 3#2, 5#32⟩).WF ∧ (Instr.wrSgirRsvd 0#8 0x03FF000F#32).WF := by decide

theorem test_witness_DecodedIsWellFormed :
    decode [0x04#8, 0x01#8, 0x02#8, 0x00#8, 0x00#8, 0x00#8, 0x00#8, 0x00#8] = .ok (.rdIsenabler 1#5 rw) := by rfl

theorem test_witness_MostSpecificRowSelected :
    (keyRows.filter (fun r => r.hits 0x07FC#13)).map KeyRow.mask = [0x1FFC#13, 0x1C00#13, 0x1000#13] := by decide

theorem test_witness_KeyAloneSelectsGroup :
    (byteRead 0#8 0x7FF#12 true).W = (wordRead 1#8 0x7FC#12).W ∧
    (byteRead 0#8 0x7FF#12 true).off.extractLsb' 2 10 = (wordRead 1#8 0x7FC#12).off.extractLsb' 2 10 := by decide

theorem test_witness_PseudoOperationsExpand :
    1023 < 1024 ∧ (32 ≤ 1019 ∧ 1019 < 1020) ∧ 31 < 32 ∧ (2 ≤ 63 ∧ 63 < 64) ∧ 1 < 2 := by decide

theorem test_witness_OutcomePrecedence :
    ¬ State.reset.Ready 0 ∧
    (dom.Ready 1 ∧ ¬ dom.Present .isenabler 2) ∧
    (dom.Present .isenabler 1 ∧ ¬ Group.isenabler.WidthAllowed .byte 0#2) ∧
    (dom.Present .icfgr 3 ∧ Group.icfgr.WidthAllowed .word 0#2) := by
  simp only [State.Present]; decide

theorem test_witness_StepRunsDecodedInstruction_free :
    { dom with inputs := [present (wordRead 0#8 0x000#12)] }.inputs = .access (wordRead 0#8 0x000#12).toBytes :: [] ∧
    decode (wordRead 0#8 0x000#12).toBytes = .ok (.rdCtlr rw) ∧ (∀ x ∈ dom.tasks, x.accessor ≠ some 0) ∧
    (seen (exec (.rdCtlr rw) dom) State.replies).isSome = true := by
  refine ⟨rfl, rfl, ?_⟩; decide

theorem test_witness_StepRunsDecodedInstruction_refused :
    exec (.rdCtlr ⟨9#8, .word, false, 0#2⟩) dom = .refused (.port .noSuchVcpu) := by rfl

theorem test_witness_StepRunsDecodedInstruction_busy :
    ∃ (k : Nat) (x : Machine.Task), (busy ⟨some 0, none, .none, .fanOut 1#8 0⟩).tasks[k]? = some x ∧
      x.accessor = some 0 ∧ ∀ j < k, ∀ y : Machine.Task,
        (busy ⟨some 0, none, .none, .fanOut 1#8 0⟩).tasks[j]? = some y → y.accessor ≠ some 0 :=
  ⟨0, _, rfl, rfl, fun j h => absurd h (Nat.not_lt_zero j)⟩

theorem test_witness_StepServesTheOtherInputs :
    (seen (portStep (.inject 0 40 none) dom) State.history).isSome = true ∧
    portStep (.inject 0 41 none) dom = .refused (.port .noSuchLine) ∧
    (seen (envStep (.blocked 1 true) dom) State.env).isSome = true ∧
    envStep (.blocked 2 true) dom = .refused (.port .badEnvironment) ∧
    { dom with inputs := [.resume 0] }.inputs = .resume 0 :: [] ∧
    { dom with inputs := [.await] }.inputs = .await :: [] ∧ dom.inputs = [] :=
  ⟨by decide, rfl, by decide, rfl, rfl, rfl, rfl⟩

theorem test_witness_UnhandledExactlyWhereListed :
    dom.Ready 0 ∧ dom.Present .ispendr 1 ∧ WriteArgs.byteOrWord ⟨0#8, .byte, 3#2, 1#32⟩ ∧ rw.alignedWord ∧
    seen (exec (.wrIspendr 1#5 (ww 0#32)) dom) State.replies = some (dom.replies ++ [⟨0, .unhandled⟩]) ∧
    seen (exec (.rdPidFE0 7#3 rw) dom) State.replies = some (dom.replies ++ [⟨0, .unhandled⟩]) := by
  simp only [State.Present]; decide

theorem test_witness_FatalOutcome :
    dom.Ready 1 ∧ dom.Present .ipriorityr 15 ∧ ¬ Group.ipriorityr.WidthAllowed .word 2#2 ∧
    seen (exec (.rdIpriorityr 15#8 ⟨1#8, .word, false, 2#2⟩) dom) State.terminated = some true ∧
    dom.terminated = false ∧
    seen (step { dom with inputs := [.access (byteWrite 0#8 0x000#12 1#32).toBytes] }) State.terminated =
      some true := by
  simp only [State.Present]; decide

theorem test_witness_ReadsChangeNothing :
    (Instr.rdSgir rw).isRead = true ∧
    seen (exec (.rdSgir rw) dom) (fun t => (t.terminated, decide (t.draws ≠ dom.draws))) = some (false, true) := by
  decide

theorem test_witness_AccessTouchesOneRank :
    ∃ t, exec (.wrIpriorityr 15#8 (ww 0x11#32)) (newDomain { smallConfig with nrSpi := 32 }) = .next t ∧
      t.rankAt 0 1 ≠ (newDomain { smallConfig with nrSpi := 32 }).rankAt 0 1 :=
  ⟨_, rfl, by decide⟩

theorem test_witness_ControlAndIdentificationReads :
    dom.Ready 1 ∧ rw.alignedWord ∧ ¬ ReadArgs.alignedWord ⟨1#8, .word, false, 1#2⟩ := by decide

theorem test_witness_TyperReadsCounts :
    dom.Ready 0 ∧ dom.cfg.valid = true ∧ rw.alignedWord ∧ ¬ ReadArgs.alignedWord ⟨0#8, .byte, false, 0#2⟩ := by decide

theorem test_witness_ZeroRegistersReadZero :
    dom.Ready 0 ∧ rw.alignedWord ∧ ¬ ReadArgs.alignedWord ⟨0#8, .half, false, 0#2⟩ ∧
    ¬ dom.Present .igroupr 2 ∧ dom.Present .igroupr 1 ∧ ¬ dom.Present .nsacr 4 ∧ dom.Present .nsacr 3 ∧
    dom.Present .rsvd 1023 := by
  simp only [State.Present]; decide

theorem test_witness_SgirReadIsFree :
    dom.Ready 0 ∧ rw.alignedWord ∧ ¬ ReadArgs.alignedWord ⟨0#8, .byte, false, 0#2⟩ := by decide

theorem test_witness_BitmapAndConfigReads :
    dom.Ready 1 ∧ (1#5).toNat ≤ dom.cfg.nsr ∧ (3#6).toNat / 2 ≤ dom.cfg.nsr ∧ rw.alignedWord ∧
    ¬ ReadArgs.alignedWord ⟨1#8, .word, false, 2#2⟩ := by decide

theorem test_witness_PendingAndSgiSourceReads :
    dom.Ready 0 ∧ rw.byteOrWord ∧ ReadArgs.byteOrWord ⟨0#8, .byte, true, 3#2⟩ ∧ (1#5).toNat ≤ dom.cfg.nsr := by decide

theorem test_witness_PriorityAndTargetReads :
    dom.Ready 0 ∧ (15#8).toNat / 8 ≤ dom.cfg.nsr ∧ rw.byteOrWord ∧ ReadArgs.byteOrWord ⟨0#8, .byte, true, 3#2⟩ := by
  decide

theorem test_witness_ByteReadIsLaneOfWordRead :
    exec (.rdItargetsr 0#8 rw) dom = .next (dom.reply 0 (.handledRead 0x01010101#32)) := by rfl

theorem test_witness_CtlrWriteKeepsBitZero :
    dom.Ready 0 ∧ (ww 0#32).alignedWord ∧ ¬ WriteArgs.alignedWord ⟨0#8, .byte, 0#2, 0#32⟩ := by decide

theorem test_witness_IgnoredWrites :
    dom.Ready 0 ∧ Group.itargetsr.WidthAllowed .byte 3#2 ∧ ¬ dom.Present .isactiver 2 ∧
    (¬ Group.isactiver.WidthAllowed .byte 0#2 ∧ dom.Present .isactiver 1) := by
  simp only [State.Present]; decide

theorem test_witness_SetEnableWrite :
    dom.Sized ∧ dom.Ready 0 ∧ (1#5).toNat ≤ dom.cfg.nsr ∧ (ww 0x300#32).alignedWord ∧
    ¬ WriteArgs.alignedWord ⟨0#8, .dword, 0#2, 0#32⟩ := by decide

theorem test_witness_ClearEnableWrite :
    dom.Sized ∧ dom.Ready 1 ∧ (1#5).toNat ≤ dom.cfg.nsr ∧ (ww 0x300#32).alignedWord ∧
    ¬ WriteArgs.alignedWord ⟨1#8, .byte, 0#2, 0#32⟩ := by decide

theorem test_witness_ClearActiveWrite :
    dom.Sized ∧ dom.Ready 1 ∧ (1#5).toNat ≤ dom.cfg.nsr ∧ (ww 0#32).alignedWord ∧
    ¬ WriteArgs.alignedWord ⟨1#8, .word, 3#2, 0#32⟩ := by decide

theorem test_witness_PriorityAndTargetWrites :
    dom.Sized ∧ dom.Ready 0 ∧ (15#8).toNat / 8 ≤ dom.cfg.nsr ∧ 8 ≤ (8#8).toNat ∧ (ww 0#32).byteOrWord ∧
    WriteArgs.byteOrWord ⟨0#8, .byte, 3#2, 0#32⟩ ∧ ¬ WriteArgs.byteOrWord ⟨0#8, .half, 0#2, 0#32⟩ := by decide

theorem test_witness_ConfigWrite :
    dom.Sized ∧ dom.Ready 0 ∧ 2 ≤ (2#6).toNat ∧ (3#6).toNat / 2 ≤ dom.cfg.nsr ∧ (ww 0#32).alignedWord ∧
    ¬ WriteArgs.alignedWord ⟨0#8, .byte, 0#2, 0#32⟩ := by decide

theorem test_witness_WriteReadRoundTrip :
    (newDomain Config.cfg0).Sized ∧ (newDomain Config.cfg0).Ready 0 ∧ 4 * (23#8).toNat + 3 < Config.cfg0.nlines ∧
    8 ≤ (8#8).toNat ∧ 2 ≤ (2#6).toNat ∧ 16 * (5#6).toNat + 15 < Config.cfg0.nlines := by decide

theorem test_witness_SgirWriteByFilter :
    ((0xFC05FFF7#32).extractLsb' 24 2 = 0#2 ∧ (0x01000002#32).extractLsb' 24 2 = 1#2 ∧
      (0x02000003#32).extractLsb' 24 2 = 2#2 ∧ (0x03000004#32).extractLsb' 24 2 = 3#2) ∧ dom.Ready 0 ∧
    (∀ x ∈ [wordWrite 0#8 0xF02#12 1#32, byteWrite 0#8 0xF00#12 1#32, byteWrite 0#8 0xF03#12 1#32],
      x.W = true ∧ x.off.extractLsb' 2 10 = 0x3C0#10 ∧ ¬ x.writeArgs.alignedWord ∧ dom.Ready x.v.toNat) := by decide

/-- R79, R85: the ignored bits [31:26], [15:4] and, but for the list, [23:16] select nothing. -/
theorem test_decode_sgir_ignored_bits :
    decode (wordWrite 1#8 0xF00#12 0xFC05FFF7#32).toBytes = .ok (.wrSgirList 1#8 0x05#8 7#4) ∧
    decode (wordWrite 1#8 0xF00#12 0xFDFFFFF2#32).toBytes = .ok (.wrSgirOthers 1#8 2#4) ∧
    decode (wordWrite 1#8 0xF00#12 0xFEFFFFF3#32).toBytes = .ok (.wrSgirSelf 1#8 3#4) := by decide

theorem test_witness_SgirTargetMasks : dom.Ready 1 ∧ dom.cfg.valid = true := by decide

theorem test_witness_SgirReservedFilter : dom.Ready 1 := by decide

theorem test_witness_InjectCoalescesOrDrops :
    ((listed 1 40).Sized ∧ (listed 1 40).LineReady 0 40 ∧ ((listed 1 40).desc 0 40).linked = some 1) ∧
    (dom.setEnv 1 { VcpuEnv.initial with online := false }).LineReady 1 31 ∧
    ((dom.setEnv 1 { VcpuEnv.initial with online := false }).desc 1 31).linked = none ∧
    ((dom.setEnv 1 { VcpuEnv.initial with online := false }).envAt 1).online = false := by decide

/-- The operands the ports refuse (R250 to R253), each at its boundary: a vCPU id equal to `NVCPU`, a line equal to
`NLINES`, a vCPU not created, a terminated domain. -/
theorem test_witness_bad_operands :
    dom.Inv ∧ dom.LineReady 1 (dom.cfg.nlines - 1) ∧ ¬ dom.LineReady dom.cfg.nvcpu 31 ∧
    ¬ dom.LineReady 1 dom.cfg.nlines ∧ State.reset.Sized ∧ ¬ State.reset.LineReady 1 31 ∧
    ¬ (dom.fatal 0).LineReady 1 31 := by decide

theorem test_witness_InjectLinksInOrder :
    (listed 1 31).Inv ∧ (listed 1 31).OrderOk ∧ (listed 1 31).LineReady 1 40 ∧
    ((listed 1 31).desc 1 40).linked = none ∧ ((listed 1 31).envAt 1).online = true := by decide

theorem test_witness_InsertKeepsOrder :
    [3, 1].Pairwise (fun x y : Nat => (if x = 3 then 1#8 else 2#8) ≤ (if y = 3 then 1#8 else 2#8)) := by decide

theorem test_witness_NotifyStep :
    (busy ⟨none, some 1, .notify 1, .nothing⟩).tasks[0]? = some ⟨none, some 1, .notify 1, .nothing⟩ ∧
    ((dom.setEnv 1 { VcpuEnv.initial with runningOn := some 2 }).envAt 1).runningOn = some 2 ∧ some 1 ≠ some 2 ∧
    (dom.envAt 1).runningOn = none ∧
    ((dom.setEnv 1 { VcpuEnv.initial with runningOn := some 1 }).envAt 1).runningOn = some 1 := by decide

/-- An enable of line 40 by vCPU 0 in progress, line 40 in the list of vCPU 1. -/
def enabling : State := { listed 1 40 with tasks := [⟨some 0, none, .none, .enable 0 0x100#32 1⟩] }

/-- An enable of the event-channel line by vCPU 0 in progress, with its upcall pending. -/
def enablingEvtchn : State :=
  { busy ⟨some 0, none, .none, .enable 0 0x80000000#32 0⟩ with
    env := [{ VcpuEnv.initial with upcall := true }, VcpuEnv.initial] }

theorem test_witness_EnableStepEffect_linked :
    enabling.Inv ∧ enabling.tasks[0]? = some ⟨some 0, none, .none, .enable 0 0x100#32 1⟩ ∧
    (0x100#32).getLsbD 8 = true ∧ (∀ j < 8, (0x100#32).getLsbD j = false) ∧
    (enabling.desc 0 (32 * 1 + 8)).linked = some 1 ∧ (enabling.desc 0 (32 * 1 + 8)).visible = false := by decide

theorem test_witness_EnableStepEffect_forced :
    enablingEvtchn.Inv ∧ (0x80000000#32).getLsbD 31 = true ∧ (∀ j < 31, (0x80000000#32).getLsbD j = false) ∧
    enablingEvtchn.cfg.evtchnLine = some (32 * 0 + 31) ∧ (enablingEvtchn.envAt 0).upcall = true ∧
    (enablingEvtchn.desc 0 (32 * 0 + 31)).linked = none := by decide

theorem test_witness_EnableStepEffect_plain :
    (busy ⟨some 0, none, .none, .enable 0 0x100#32 1⟩).Inv ∧
    ((busy ⟨some 0, none, .none, .enable 0 0x100#32 1⟩).desc 0 40).linked = none := by decide

theorem test_witness_DisableStepEffect :
    { listed 1 40 with tasks := [⟨some 0, none, .none, .disable 0 0x100#32 1⟩] }.Inv ∧
    (0x100#32).getLsbD 8 = true ∧ (∀ j < 8, (0x100#32).getLsbD j = false) := by decide

theorem test_witness_SgiTargetStep :
    (busy ⟨some 0, none, .none, .fanOut 0x82#8 1⟩).tasks[0]? = some ⟨some 0, none, .none, .fanOut 0x82#8 1⟩ ∧
    ((0x82#8).getLsbD 1 = true ∧ (∀ j < 1, (0x82#8).getLsbD j = false) ∧
      1 < dom.cfg.nvcpu ∧ (dom.vcpuAt 1).created = true ∧ (dom.envAt 1).online = true) ∧
    ((0x80#8).getLsbD 7 = true ∧ (∀ j < 7, (0x80#8).getLsbD j = false) ∧ ¬ 7 < dom.cfg.nvcpu) := by decide

theorem test_witness_OperationsRunTheInjectionEngine :
    (busy ⟨some 0, none, .link 1 40, .nothing⟩).tasks[0]? = some ⟨some 0, none, .link 1 40, .nothing⟩ ∧
    (busy ⟨some 0, none, .link 1 40, .nothing⟩).LineReady 1 40 := by decide

theorem test_witness_CreatedDomainValues :
    ({ State.reset with phase := .absent }.phase = .absent ∧ smallConfig.valid = true) ∧
    ¬ (dom.phase = .absent) ∧ ¬ ({ dom with phase := .destroyed }.phase = .absent) ∧
    { smallConfig with nrSpi := 988 }.valid = true ∧ { smallConfig with nrSpi := 989 }.valid = false ∧
    { smallConfig with nvcpu := 9 }.valid = false := by decide

theorem test_witness_CreateVcpuValues :
    (State.reset.Sized ∧ State.reset.phase = .live ∧ State.reset.terminated = false ∧ 1 < State.reset.cfg.nvcpu ∧
      (State.reset.vcpuAt 1).created = false) ∧
    ¬ (2 < State.reset.cfg.nvcpu) ∧ dom.Sized ∧ (dom.vcpuAt 1).created = true := by decide

theorem test_witness_DestroyVcpuReleases :
    ((listed 1 40).Sized ∧ (listed 1 40).phase = .live ∧ (listed 1 40).terminated = false ∧
      1 < (listed 1 40).cfg.nvcpu ∧ ((listed 1 40).vcpuAt 1).created = true ∧
      (listed 1 40).tasks = [] ∧ 40 ∈ (listed 1 40).inflight 1) ∧
    (busy ⟨none, none, .notify 0, .nothing⟩).tasks ≠ [] ∧
    (State.reset.Sized ∧ (State.reset.vcpuAt 1).created = false) := by decide

theorem test_witness_DestroyDomainEnds :
    dom.phase = .live ∧ dom.tasks = [] ∧ (busy ⟨none, none, .notify 1, .nothing⟩).tasks ≠ [] ∧
    { dom with phase := .destroyed }.phase = .destroyed := by decide

theorem test_witness_CollaboratorPorts :
    (listed 1 40).Inv ∧ (listed 1 40).LineReady 1 40 ∧ ((listed 1 40).desc 1 40).linked = some 1 ∧
    (listed 1 40).LineReady 0 40 ∧ ((listed 1 40).desc 0 40).linked ≠ some 0 ∧
    ¬ (listed 1 40).LineReady 0 (listed 1 40).cfg.nlines := by decide

theorem test_witness_EnvironmentMoves :
    dom.Sized ∧ dom.phase = .live ∧ 1 < dom.cfg.nvcpu ∧ 3 ∈ dom.cfg.proc ∧ 4 ∉ dom.cfg.proc := by
  decide

theorem test_witness_TerminatedDomainIsFrozen :
    (dom.fatal 0).Inv ∧ (dom.fatal 0).phase = .live ∧ (dom.fatal 0).terminated = true ∧
    (seen (envStep (.online 1 false) (dom.fatal 0)) State.terminated).isSome = true ∧
    (seen (step (dom.fatal 0)) State.terminated).isSome = true := by decide

theorem test_witness_HistoryAppendOnly :
    dom.phase ≠ .absent ∧
    (seen (step { dom with inputs := [.port (.inject 0 40 none)] }) State.history).isSome = true := by decide

theorem test_witness_ControllerGatesNothing :
    (∀ bs rest i, { dom with inputs := [.port (.inject 0 40 none)] }.inputs = .access bs :: rest →
      decode bs = .ok i → i.group ≠ .ctlr) ∧
    (∀ d rest, { dom with inputs := [.port (.inject 0 40 none)] }.inputs ≠ .port (.createDomain d) :: rest) ∧
    (seen (step { dom with inputs := [.port (.inject 0 40 none)] }) State.history).isSome = true := by
  refine ⟨fun bs rest i h => ?_, fun d rest h => ?_, by decide⟩
  · exact absurd (List.cons.inj h).1 (by simp)
  · exact absurd (List.cons.inj h).1 (by simp)

theorem test_witness_CollaboratorOwnsVisibleAndActive :
    ((listed 1 40).desc 0 40).visible = false ∧ ((listed 1 40).desc 0 40).active = false ∧
    seen (step { listed 1 40 with inputs := [.port (.ciVisible 1 40 true)] }) (fun t => (t.desc 0 40).visible) =
      some true ∧
    seen (step { listed 1 40 with inputs := [.port (.ciActive 1 40 true)] }) (fun t => (t.desc 0 40).active) =
      some true := by decide

theorem test_witness_PriorityFixedWhileLinked :
    ((listed 1 40).desc 0 40).linked = some 1 ∧
    seen (step { listed 1 40 with inputs := [present (pseudoSetPrio 0#8 40 0x55#8)] })
      (fun t => ((t.desc 0 40).linked, (t.rankAt 0 1).priority.getD 8 0#8)) = some (some 1, 0x55#8) := by decide

theorem test_witness_CreatedDomainMeetsInvariants : smallConfig.valid = true := by decide

theorem test_witness_StepKeepsInv : enabling.Inv ∧ (seen (step enabling) State.tasks).isSome = true := by decide

theorem test_witness_StepKeepsOrder :
    enabling.Inv ∧ enabling.OrderOk ∧ (seen (step enabling) State.tasks).isSome = true := by decide

theorem test_witness_StepKeepsRegisters :
    enabling.Inv ∧ enabling.RegistersOk ∧ (seen (step enabling) State.tasks).isSome = true := by decide

theorem test_witness_OperationsAreBounded :
    enablingEvtchn.Inv ∧ enablingEvtchn.inputs = [] ∧ enablingEvtchn.bound = 3 ∧
    enablingEvtchn.tasks[0]?.isSome = true ∧ seen (advance 0 enablingEvtchn) State.bound = some 2 ∧
    seen (advance 0 (busy ⟨none, none, .notify 1, .nothing⟩)) State.tasks = some [] ∧
    seen (exec (.wrIsenabler 1#5 (ww 0x1FF#32)) dom) State.bound = some 9 ∧
    seen (portStep (.inject 0 40 none) dom) State.bound = some 1 ∧
    (seen (envStep (.blocked 1 true) enablingEvtchn) State.bound) = some 3 := by decide

/-- A shared line injected into the other vCPU, and a private line into the accessor; the line is the next one. -/
theorem test_witness_EnableWindow :
    ((busy ⟨some 0, none, .none, .enable 0 0x100#32 1⟩).Inv ∧
      (busy ⟨some 0, none, .none, .enable 0 0x100#32 1⟩).tasks[0]? = some ⟨some 0, none, .none, .enable 0 0x100#32 1⟩ ∧
      (0x100#32).getLsbD 8 = true ∧ (∀ j < 8, (0x100#32).getLsbD j = false) ∧
      1 < (busy ⟨some 0, none, .none, .enable 0 0x100#32 1⟩).cfg.nvcpu ∧
      ((busy ⟨some 0, none, .none, .enable 0 0x100#32 1⟩).vcpuAt 1).created = true ∧
      ((busy ⟨some 0, none, .none, .enable 0 0x100#32 1⟩).envAt 1).online = true ∧ ¬ (32 * 1 + 8 < 32) ∧
      ((busy ⟨some 0, none, .none, .enable 0 0x100#32 1⟩).desc 0 (32 * 1 + 8)).enabled = false ∧
      ((busy ⟨some 0, none, .none, .enable 0 0x100#32 1⟩).desc 0 (32 * 1 + 8)).linked = none) ∧
    (busy ⟨some 0, none, .none, .enable 0 0x20#32 0⟩).Inv ∧ 32 * 0 + 5 < 32 ∧ (0x20#32).getLsbD 5 = true ∧
    ((busy ⟨some 0, none, .none, .enable 0 0x20#32 0⟩).desc 0 (32 * 0 + 5)).linked = none := by decide

theorem test_witness_RacingEnableAndDisable :
    dom.Inv ∧ dom.tasks = [] ∧ (0#8) ≠ 1#8 ∧ dom.Ready 0 ∧ dom.Ready 1 ∧ 1 ≤ (1#5).toNat ∧ 8 < 32 ∧
    32 * (1#5).toNat + 8 < dom.cfg.nlines ∧ (dom.rankAt 0 1).enable.getLsbD 8 = false ∧
    dom.cfg.backingOf (.shared 40) = some 72 := by decide

end Sys2Proof.Tests
end

/-! # What a new domain and every step keep (10_state.md)

The reads after a write, what each operation does to ranks, descriptors and lists, one rule per invariant and write, and
from these the invariants step by step. -/

/-! ## Reads, and what an access and a step are made of -/

namespace Sys2Proof.Machine

/-! ### Reads after writes of a sized record -/

theorem State.hasVcpu_iff (s : State) (v : Nat) :
    s.hasVcpu v = true ↔ v < s.cfg.nvcpu ∧ (s.vcpuAt v).created = true := by
  simp [State.hasVcpu]

/-- A line below 32 has one descriptor per vCPU, a shared line has one (10_state.md R26). -/
theorem State.desc_eq_of_key (s : State) {u v L : Nat} (h : L < 32 → u = v) : s.desc u L = s.desc v L := by
  by_cases hL : L < 32
  · rw [h hL]
  · simp [State.desc, hL]

theorem State.desc_setDesc_of_sized {s : State} {v L : Nat} (hs : s.Sized) (hv : v < s.cfg.nvcpu)
    (hL : L < s.cfg.nlines) (d : Descriptor) (w M : Nat) :
    (s.setDesc v L d).desc w M = if M = L ∧ (L < 32 → w = v) then d else s.desc w M := by
  obtain ⟨-, hspi, hvcpu, -⟩ := hs
  rw [State.desc_setDesc]
  simp only [Config.nlines] at hL
  exact if_congr (by omega) rfl rfl

theorem State.inflight_setInflight_of_sized {s : State} {v : Nat} (hs : s.Sized) (hv : v < s.cfg.nvcpu)
    (l : List Nat) (w : Nat) : (s.setInflight v l).inflight w = if w = v then l else s.inflight w := by
  obtain ⟨-, -, hvcpu, -⟩ := hs
  rw [State.inflight_setInflight]
  exact if_congr (by omega) rfl rfl

/-- A descriptor write that keeps a field of the descriptor keeps it of every descriptor. -/
theorem State.setDesc_keeps {α : Type} (f : Descriptor → α) {s : State} {v L : Nat} {d : Descriptor}
    (h : f d = f (s.desc v L)) (w M : Nat) : f ((s.setDesc v L d).desc w M) = f (s.desc w M) := by
  rw [State.desc_setDesc]
  split
  next hc =>
    obtain ⟨rfl, hc⟩ := hc
    rw [h, s.desc_eq_of_key (u := v) (v := w) (by omega)]
  next => rfl

/-! ### A new domain and the vCPU life cycle (46_ports_lifecycle.md R254 to R256) -/

section

variable (c : Config)

@[simp] theorem State.created_cfg : (State.created c).cfg = c := rfl
@[simp] theorem State.created_tasks : (State.created c).tasks = [] := rfl

@[simp] theorem State.created_vcpuAt (v : Nat) : (State.created c).vcpuAt v = VcpuState.absent := by
  simp only [State.vcpuAt, State.created, List.getD_eq_getElem?_getD, List.getElem?_replicate]
  split <;> rfl

@[simp] theorem State.created_inflight (v : Nat) : (State.created c).inflight v = [] := by
  simp [State.inflight, VcpuState.absent]

theorem VcpuState.absent_pdesc_getD (L : Nat) : VcpuState.absent.pdesc.getD L Descriptor.zero = Descriptor.zero := by
  rcases Nat.lt_or_ge L 32 with hL | hL <;> simp [VcpuState.absent, Vector.getD, hL]

@[simp] theorem State.created_desc (v L : Nat) : (State.created c).desc v L = Descriptor.zero := by
  rw [State.desc, State.created_vcpuAt, VcpuState.absent_pdesc_getD]
  simp only [State.created, List.getD_eq_getElem?_getD, List.getElem?_replicate]
  split
  · rfl
  · split <;> rfl

@[simp] theorem State.created_rankAt (v r : Nat) : (State.created c).rankAt v r = Rank.zero := by
  rw [State.rankAt, State.created_vcpuAt]
  simp only [State.created, List.getD_eq_getElem?_getD, List.getElem?_replicate]
  split
  · rfl
  · split <;> rfl

end

theorem State.desc_setVcpu {s : State} (v : Nat) (x : VcpuState) (hv : v < s.vcpu.length) (w L : Nat) :
    (s.setVcpu v x).desc w L =
      if L < 32 ∧ w = v then x.pdesc.getD L Descriptor.zero else s.desc w L := by
  simp only [State.desc, State.vcpuAt_setVcpu, State.setVcpu_spi]
  by_cases hL : L < 32
  · by_cases hw : w = v
    · simp [hL, hw, hv]
    · simp [hL, hw, Ne.symm hw]
  · simp [hL]

theorem State.rankAt_setVcpu {s : State} (v : Nat) (x : VcpuState) (hv : v < s.vcpu.length) (w r : Nat) :
    (s.setVcpu v x).rankAt w r = if r = 0 ∧ w = v then x.prank else s.rankAt w r := by
  simp only [State.rankAt, State.vcpuAt_setVcpu, State.setVcpu_shared]
  by_cases hr : r = 0
  · by_cases hw : w = v
    · simp [hr, hw, hv]
    · simp [hr, hw, Ne.symm hw]
  · simp [hr]

theorem State.inflight_setVcpu {s : State} (v : Nat) (x : VcpuState) (hv : v < s.vcpu.length) (w : Nat) :
    (s.setVcpu v x).inflight w = if w = v then x.inflight else s.inflight w := by
  simp only [State.inflight, State.vcpuAt_setVcpu]
  by_cases hw : w = v
  · simp [hw, hv]
  · simp [hw, Ne.symm hw]

/-- Creating a vCPU whose record is zero changes no descriptor and no list (R255). -/
theorem State.setVcpu_fresh_lines {s : State} {v : Nat} (hv : v < s.vcpu.length)
    (habs : s.vcpuAt v = VcpuState.absent) :
    (∀ w L, (s.setVcpu v (VcpuState.fresh v)).desc w L = s.desc w L) ∧
    ∀ w, (s.setVcpu v (VcpuState.fresh v)).inflight w = s.inflight w := by
  constructor
  · intro w L
    rw [State.desc_setVcpu v _ hv]
    split
    next h =>
      obtain ⟨hL, rfl⟩ := h
      simp only [State.desc, hL, if_true, habs]
      rfl
    next => rfl
  · intro w
    rw [State.inflight_setVcpu v _ hv]
    split
    next h => subst h; simp [State.inflight, habs, VcpuState.fresh, VcpuState.absent]
    next => rfl

/-- The state after the teardown of vCPU `v` (R256). -/
def State.teardown (s : State) (v : Nat) : State :=
  ({ s with spi := releaseShared s.spi (s.inflight v) }).setVcpu v VcpuState.absent

theorem portDestroyVcpu_teardown {v : Nat} {s t : State} (h : portDestroyVcpu v s = .next t) :
    s.hasVcpu v = true ∧ s.tasks = [] ∧ t = s.teardown v := by
  obtain ⟨⟨-, -, hv, hc⟩, htasks, rfl⟩ := portDestroyVcpu_next h
  exact ⟨(s.hasVcpu_iff v).2 ⟨hv, hc⟩, htasks, rfl⟩

theorem releaseShared_getD (spi : List Descriptor) (l : List Nat) (i : Nat) :
    (releaseShared spi l).getD i Descriptor.zero =
      if i + 32 ∈ l then (spi.getD i Descriptor.zero).release else spi.getD i Descriptor.zero := by
  simp only [releaseShared, List.getD_eq_getElem?_getD, List.getElem?_mapIdx, List.contains_iff_mem]
  cases spi[i]? with
  | some d => rfl
  | none => split <;> rfl

/-- What a teardown leaves of each descriptor (R256). -/
theorem State.teardown_desc {s : State} {v : Nat} (hv : v < s.vcpu.length) (w L : Nat) :
    (s.teardown v).desc w L =
      if L < 32 then (if w = v then Descriptor.zero else s.desc w L)
      else if L ∈ s.inflight v then (s.desc w L).release else s.desc w L := by
  have h := State.desc_setVcpu (s := { s with spi := releaseShared s.spi (s.inflight v) }) v VcpuState.absent hv w L
  rw [State.teardown, h, VcpuState.absent_pdesc_getD]
  by_cases hL : L < 32
  · simp only [hL, true_and, if_true]
    split
    next => rfl
    next => simp [State.desc, State.vcpuAt, hL]
  · have : L - 32 + 32 = L := by omega
    simp only [State.desc, hL, if_false, false_and, releaseShared_getD, this]

theorem State.teardown_inflight {s : State} {v : Nat} (hv : v < s.vcpu.length) (w : Nat) :
    (s.teardown v).inflight w = if w = v then [] else s.inflight w :=
  State.inflight_setVcpu (s := { s with spi := releaseShared s.spi (s.inflight v) }) v VcpuState.absent hv w

theorem State.teardown_vcpuAt {s : State} {v : Nat} (hv : v < s.vcpu.length) (w : Nat) :
    (s.teardown v).vcpuAt w = if w = v then VcpuState.absent else s.vcpuAt w := by
  rw [State.teardown, State.vcpuAt_setVcpu]
  exact if_congr (by simp only [hv, and_true, eq_comm]) rfl rfl

/-! ### The rank phase of an access

What an access does to the registers, apart from what it does to the rest of the state: the rank phase of
70_reset_and_hazards.md R341. -/

/-- The rank phase of an instruction: the write of the one rank it names, or nothing. -/
def rankPhase : Instr → State → State
  | .wrIsenabler n a, s => setEnable s a.v.toNat n.toNat a.val
  | .wrIcenabler n a, s => clearEnable s a.v.toNat n.toNat a.val
  | .wrIcactiver n a, s => clearActive s a.v.toNat n.toNat a.val
  | .wrIpriorityr n a, s => storePriority s n.toNat a
  | .wrItargetsr n a, s => storeTarget s n.toNat a
  | .wrIcfgr n a, s => storeCfgWord s n.toNat a
  | _, s => s

/-- Beginning an operation changes the operations in progress and the replies only. -/
theorem State.begin_frame (s : State) (x : Task) :
    s.begin x = { s with tasks := (s.begin x).tasks, replies := (s.begin x).replies } := by
  rcases s.begin_cases x with ⟨-, h⟩ | ⟨-, h⟩ <;> rw [h]
  rw [State.complete_eq]

/-- An SGI write fans out to a mask of targets, or reports a bad filter (45_sgi.md R230). -/
theorem dispatchSgi_cases (v : Nat) (val : Word) (s : State) :
    (∃ (m : Byte) (id : BitVec 4), dispatchSgi v val s = sgiFanOut v m id.toNat s) ∨
    dispatchSgi v val s = sgiBadFilter v val s := by
  simp only [dispatchSgi]
  split
  · exact .inl ⟨_, _, rfl⟩
  split
  · exact .inl ⟨_, _, rfl⟩
  split
  · exact .inl ⟨_, _, rfl⟩
  · exact .inr rfl

/-- Beside the rank phase, an access that dispatch lets through changes no rank, no descriptor and no list. -/
theorem performed_frame (i : Instr) (s : State) :
    performed i s = { rankPhase i s with
      ctlr := (performed i s).ctlr, history := (performed i s).history, tasks := (performed i s).tasks,
      replies := (performed i s).replies, draws := (performed i s).draws } := by
  have hbegin : ∀ (u : State) (x : Task), u.begin x = { u with
      ctlr := (u.begin x).ctlr, history := (u.begin x).history, tasks := (u.begin x).tasks,
      replies := (u.begin x).replies, draws := (u.begin x).draws } := by
    intro u x; rw [u.begin_frame x]
  cases i
  case wrIsenabler => exact hbegin _ _
  case wrIcenabler => exact hbegin _ _
  case wrSgirList => exact hbegin _ _
  case wrSgirOthers => exact hbegin _ _
  case wrSgirSelf => exact hbegin _ _
  case wrSgir a =>
    simp only [performed]
    rcases dispatchSgi_cases a.v.toNat a.val s with ⟨m, id, e⟩ | e <;> rw [e]
    · exact hbegin _ _
    · rfl
  all_goals rfl

/-- The rank phase writes one rank, as the accessor names it, or nothing. -/
theorem rankPhase_cases (i : Instr) (s : State) :
    rankPhase i s = s ∨ ∃ r R, rankPhase i s = s.setRank i.accessor.toNat r R := by
  cases i
  case wrIsenabler => exact .inr ⟨_, _, rfl⟩
  case wrIcenabler => exact .inr ⟨_, _, rfl⟩
  case wrIcactiver => exact .inr ⟨_, _, rfl⟩
  case wrIpriorityr => exact .inr ⟨_, _, rfl⟩
  case wrItargetsr => exact .inr ⟨_, _, rfl⟩
  case wrIcfgr => exact .inr ⟨_, _, rfl⟩
  all_goals exact .inl rfl

/-- `t` is `u` but for the fields no invariant of the records reads. -/
abbrev State.SameRecords (u t : State) : Prop :=
  t = { u with
    ctlr := t.ctlr, terminated := t.terminated, history := t.history, tasks := t.tasks, replies := t.replies,
    draws := t.draws }

/-- What an access does to the records is at most a write of one rank as the accessor names it. -/
theorem exec_records {i : Instr} {s t : State} (h : exec i s = .next t) :
    s.SameRecords t ∨ ∃ r R, (s.setRank i.accessor.toNat r R).SameRecords t := by
  obtain ⟨-, ⟨-, rfl⟩ | ⟨-, -, rfl⟩ | ⟨-, -, rfl⟩⟩ := exec_next h
  · exact .inl rfl
  · exact .inl rfl
  · rw [performed_frame]
    rcases rankPhase_cases i s with e | ⟨r, R, e⟩ <;> rw [e]
    · exact .inl rfl
    · exact .inr ⟨r, R, rfl⟩

theorem exec_phase_cfg {i : Instr} {s t : State} (h : exec i s = .next t) : t.phase = s.phase ∧ t.cfg = s.cfg := by
  rcases exec_records h with e | ⟨r, R, e⟩ <;> rw [e] <;> exact ⟨rfl, rfl⟩

/-- An access changes no descriptor (10_state.md R25, 70_reset_and_hazards.md R341). -/
theorem exec_desc {i : Instr} {s t : State} (h : exec i s = .next t) (v L : Nat) : t.desc v L = s.desc v L := by
  rcases exec_records h with e | ⟨r, R, e⟩ <;> rw [e]
  · rfl
  · exact s.desc_setRank i.accessor.toNat v r L R

/-- An access changes no inflight list. -/
theorem exec_inflight {i : Instr} {s t : State} (h : exec i s = .next t) (v : Nat) : t.inflight v = s.inflight v := by
  rcases exec_records h with e | ⟨r, R, e⟩ <;> rw [e]
  · rfl
  · exact s.inflight_setRank i.accessor.toNat v r R

/-- An access creates and removes no vCPU. -/
theorem exec_created {i : Instr} {s t : State} (h : exec i s = .next t) (v : Nat) :
    (t.vcpuAt v).created = (s.vcpuAt v).created := by
  rcases exec_records h with e | ⟨r, R, e⟩ <;> rw [e]
  · rfl
  · exact s.created_setRank i.accessor.toNat r v R

/-! ### One step, one of its parts -/

/-- What the input stream and the noted refusals do not matter to, and every access, port operation, environment move
and step of an operation in progress keeps, every step keeps. -/
theorem step_keeps {P : State → Prop}
    (hnote : ∀ (s : State) xs rs, P s → P { s with inputs := xs, refusals := rs })
    (hadvance : ∀ k s t, P s → advance k s = .next t → P t)
    (hexec : ∀ bs i s t, decode bs = .ok i → P s → exec i s = .next t → P t)
    (hport : ∀ op s t, P s → portStep op s = .next t → P t)
    (henv : ∀ m s t, P s → envStep m s = .next t → P t)
    {s t : State} (hs : P s) (h : step s = .next t) : P t := by
  have hpop : P s.popInput := hnote s _ _ hs
  rcases step_next h with rfl | rfl | ⟨c, rfl⟩ | ⟨k, h | h⟩ | ⟨bs, _, i, -, hd, h⟩ | ⟨op, _, -, h⟩ | ⟨m, _, -, h⟩
  · exact hs
  · exact hpop
  · exact hnote s _ _ hs
  · exact hadvance k _ _ hs h
  · exact hadvance k _ _ hpop h
  · exact hexec bs i _ _ hd hpop h
  · exact hport op _ _ hpop h
  · exact henv m _ _ hpop h

end Sys2Proof.Machine

/-! ## The records: linkage and vCPUs that do not exist -/

namespace Sys2Proof.Machine

/-! ### The linkage invariant (10_state.md R28) -/

/-- The linkage invariant reads the parameters, the links and the lists only. -/
theorem State.LinkageOk.congr {s t : State} (h : s.LinkageOk) (hcfg : t.cfg = s.cfg)
    (hd : ∀ v L, (t.desc v L).linked = (s.desc v L).linked) (hi : ∀ v, t.inflight v = s.inflight v) :
    t.LinkageOk := by
  simpa only [State.LinkageOk, hcfg, hd, hi] using h

/-- A line that is linked nowhere is in no list, whoever names it. -/
theorem State.LinkageOk.not_mem_of_unlinked {s : State} (h : s.LinkageOk) {v L : Nat} (hv : v < s.cfg.nvcpu)
    (hL : L < s.cfg.nlines) (hnone : (s.desc v L).linked = none) {u : Nat} (hu : u < s.cfg.nvcpu)
    (hkey : L < 32 → u = v) : L ∉ s.inflight u := by
  intro hmem
  have := ((h.2 v hv L hL).2 u hu).2 ⟨hmem, hkey⟩
  simp [hnone] at this

/-- A line linked to `u` is in the list of `u`, which exists in the parameters; a line below 32 is `u`'s own. -/
theorem State.LinkageOk.mem_of_linked {s : State} (h : s.LinkageOk) {v L u : Nat} (hv : v < s.cfg.nvcpu)
    (hL : L < s.cfg.nlines) (hlink : (s.desc v L).linked = some u) :
    u < s.cfg.nvcpu ∧ L ∈ s.inflight u ∧ (L < 32 → u = v) := by
  obtain ⟨hall, hiff⟩ := h.2 v hv L hL
  have hu : u < s.cfg.nvcpu := by simpa [hlink] using hall
  exact ⟨hu, (hiff u hu).1 hlink⟩

/-- Linking an unlinked line and inserting it into the list it is linked to keeps the invariant (44_injection.md
R214). -/
theorem State.LinkageOk.link {s t : State} (h : s.LinkageOk) (hcfg : t.cfg = s.cfg) {v L : Nat}
    (hv : v < s.cfg.nvcpu) (hL : L < s.cfg.nlines) (hnone : (s.desc v L).linked = none)
    (hd : ∀ w M, (t.desc w M).linked = if M = L ∧ (L < 32 → w = v) then some v else (s.desc w M).linked)
    (hi : ∀ w, (t.inflight w).Perm (if w = v then L :: s.inflight v else s.inflight w)) : t.LinkageOk := by
  have hfree : ∀ u < s.cfg.nvcpu, (L < 32 → u = v) → L ∉ s.inflight u :=
    fun u hu hkey => h.not_mem_of_unlinked hv hL hnone hu hkey
  simp only [State.LinkageOk, hcfg]
  refine ⟨fun w hw => ?_, fun w hw M hM => ?_⟩
  · obtain ⟨hnodup, hlines⟩ := h.1 w hw
    simp only [(hi w).nodup_iff, (hi w).mem_iff]
    split
    next hwv =>
      subst hwv
      exact ⟨List.nodup_cons.2 ⟨hfree w hw fun _ => rfl, hnodup⟩, List.forall_mem_cons.2 ⟨hL, hlines⟩⟩
    next => exact ⟨hnodup, hlines⟩
  · rw [hd]
    obtain ⟨hall, hiff⟩ := h.2 w hw M hM
    split
    next hkey =>
      obtain ⟨rfl, hkey⟩ := hkey
      refine ⟨by simpa using hv, fun u hu => ?_⟩
      rw [(hi u).mem_iff]
      by_cases huv : u = v
      · subst huv
        simp only [if_true, List.mem_cons, true_or, true_and, true_iff]
        exact fun hM => (hkey hM).symm
      · have : ¬ (M ∈ s.inflight u ∧ (M < 32 → u = w)) := fun ⟨hmem, hu'⟩ =>
          hfree u hu (fun hM => (hu' hM).trans (hkey hM)) hmem
        simp only [huv, if_false, this, iff_false, Option.some.injEq]
        exact fun e => huv e.symm
    next hkey =>
      refine ⟨hall, fun u hu => ?_⟩
      rw [hiff u hu, (hi u).mem_iff]
      by_cases huv : u = v
      · subst huv
        simp only [if_true, List.mem_cons]
        constructor
        · rintro ⟨hmem, hu'⟩; exact ⟨.inr hmem, hu'⟩
        · rintro ⟨rfl | hmem, hu'⟩
          · exact absurd ⟨rfl, fun hM => (hu' hM).symm⟩ hkey
          · exact ⟨hmem, hu'⟩
      · simp only [huv, if_false]

/-- Unlinking a line and taking it off the list that holds it keeps the invariant (43_enable_disable.md R195,
46_ports_lifecycle.md R253). -/
theorem State.LinkageOk.unlink {s t : State} (h : s.LinkageOk) (hcfg : t.cfg = s.cfg) {v L u : Nat}
    (hv : v < s.cfg.nvcpu) (hL : L < s.cfg.nlines) (hlink : (s.desc v L).linked = some u)
    (hd : ∀ w M, (t.desc w M).linked = if M = L ∧ (L < 32 → w = v) then none else (s.desc w M).linked)
    (hi : ∀ w, t.inflight w = if w = u then (s.inflight u).erase L else s.inflight w) : t.LinkageOk := by
  obtain ⟨hu, -, huv⟩ := h.mem_of_linked hv hL hlink
  simp only [State.LinkageOk, hcfg, hi, hd]
  refine ⟨fun w hw => ?_, fun w hw M hM => ?_⟩
  · obtain ⟨hnodup, hlines⟩ := h.1 w hw
    split
    next hwu => subst hwu; exact ⟨hnodup.erase L, fun M hM => hlines M (List.mem_of_mem_erase hM)⟩
    next => exact ⟨hnodup, hlines⟩
  · obtain ⟨hall, hiff⟩ := h.2 w hw M hM
    split
    next hkey =>
      obtain ⟨rfl, hkey⟩ := hkey
      refine ⟨rfl, fun x hx => ?_⟩
      simp only [reduceCtorEq, false_iff, not_and]
      split
      next hxu => subst hxu; exact fun hmem => absurd hmem (h.1 x hu).1.not_mem_erase
      next hxu =>
        intro hmem hxw
        have hx' := (hiff x hx).2 ⟨hmem, hxw⟩
        rw [s.desc_eq_of_key hkey, hlink] at hx'
        exact hxu (Option.some.inj hx').symm
    next hkey =>
      refine ⟨hall, fun x hx => ?_⟩
      rw [hiff x hx]
      split
      next hxu =>
        subst hxu
        rw [(h.1 x hu).1.mem_erase_iff]
        constructor
        · rintro ⟨hmem, hxw⟩
          refine ⟨⟨?_, hmem⟩, hxw⟩
          rintro rfl
          exact hkey ⟨rfl, fun hM => (hxw hM).symm.trans (huv hM)⟩
        · rintro ⟨⟨-, hmem⟩, hxw⟩; exact ⟨hmem, hxw⟩
      next => rfl

/-! ### Records of vCPUs that do not exist (46_ports_lifecycle.md R256, log 24) -/

theorem State.AbsentOk.setVcpu {s : State} (h : s.AbsentOk) (v : Nat) {x : VcpuState} (hx : x.created = true) :
    (s.setVcpu v x).AbsentOk := by
  intro u hu hc
  rw [State.vcpuAt_setVcpu] at hc ⊢
  split at hc
  next => simp [hx] at hc
  next hne => rw [if_neg hne]; exact h u hu hc

theorem State.AbsentOk.setRank {s : State} (h : s.AbsentOk) {v : Nat} (hv : (s.vcpuAt v).created = true) (r : Nat)
    (R : Rank) : (s.setRank v r R).AbsentOk := by
  by_cases hr : r = 0
  · subst hr
    rw [State.setRank_private]
    exact h.setVcpu v hv
  · rw [State.setRank_shared s v r R hr]
    exact h

theorem State.AbsentOk.setDesc {s : State} (h : s.AbsentOk) {v : Nat} (hv : (s.vcpuAt v).created = true) (L : Nat)
    (d : Descriptor) : (s.setDesc v L d).AbsentOk := by
  by_cases hL : L < 32
  · rw [State.setDesc_private s v L d hL]
    exact h.setVcpu v hv
  · rw [State.setDesc_shared s v L d (by omega)]
    exact h

theorem State.AbsentOk.setInflight {s : State} (h : s.AbsentOk) {v : Nat} (hv : (s.vcpuAt v).created = true)
    (l : List Nat) : (s.setInflight v l).AbsentOk :=
  h.setVcpu v hv

/-! ### The invariant without the operations in progress -/

/-- The structural invariant apart from the operations in progress. -/
abbrev State.RecordsOk (s : State) : Prop := s.cfg.valid = true ∧ s.Sized ∧ s.LinkageOk ∧ s.AbsentOk

theorem State.inv_iff (s : State) : s.Inv ↔ s.RecordsOk ∧ s.TasksOk := by
  simp only [State.Inv, State.RecordsOk]; tauto

/-- It reads the parameters and the four lists of records only. -/
theorem State.RecordsOk.congr {s t : State} (h : s.RecordsOk) (hcfg : t.cfg = s.cfg) (hshared : t.shared = s.shared)
    (hspi : t.spi = s.spi) (hvcpu : t.vcpu = s.vcpu) (henv : t.env = s.env) : t.RecordsOk := by
  have hat : ∀ v, t.vcpuAt v = s.vcpuAt v := fun v => by simp only [State.vcpuAt, hvcpu]
  obtain ⟨hvalid, hsized, hlink, habs⟩ := h
  refine ⟨by rwa [hcfg], by rwa [State.Sized, hcfg, hshared, hspi, hvcpu, henv], ?_, ?_⟩
  · exact hlink.congr hcfg (fun v L => by simp only [State.desc, hat, hspi]) (fun v => by simp only [State.inflight, hat])
  · simpa only [State.AbsentOk, hcfg, hat] using habs

/-- A vCPU whose list holds a line exists. -/
theorem State.AbsentOk.hasVcpu_of_mem {s : State} (h : s.AbsentOk) {v L : Nat} (hv : v < s.cfg.nvcpu)
    (hmem : L ∈ s.inflight v) : s.hasVcpu v = true := by
  rw [State.hasVcpu_iff]
  refine ⟨hv, ?_⟩
  by_contra hc
  rw [Bool.not_eq_true] at hc
  simp [State.inflight, h v hv hc, VcpuState.absent] at hmem

theorem State.RecordsOk.setRank {s : State} (h : s.RecordsOk) {v : Nat} (hv : (s.vcpuAt v).created = true) (r : Nat)
    (R : Rank) : (s.setRank v r R).RecordsOk := by
  obtain ⟨hvalid, hsized, hlink, habs⟩ := h
  refine ⟨hvalid, by simpa [State.Sized] using hsized, ?_, habs.setRank hv r R⟩
  exact hlink.congr rfl (by simp) (by simp)

/-- A descriptor write that leaves the link as it is. -/
theorem State.RecordsOk.setDesc {s : State} (h : s.RecordsOk) {v L : Nat} {d : Descriptor}
    (hv : (s.vcpuAt v).created = true) (hd : d.linked = (s.desc v L).linked) : (s.setDesc v L d).RecordsOk := by
  obtain ⟨hvalid, hsized, hlink, habs⟩ := h
  refine ⟨hvalid, by simpa [State.Sized] using hsized, ?_, habs.setDesc hv L d⟩
  exact hlink.congr rfl (State.setDesc_keeps Descriptor.linked hd) (by simp)

/-- Unlinking: the descriptor write and the list write together. -/
theorem State.RecordsOk.unlink {s : State} (h : s.RecordsOk) {v L u : Nat} {d : Descriptor} (hv : s.hasVcpu v = true)
    (hL : L < s.cfg.nlines) (hlink : (s.desc v L).linked = some u) (hd : d.linked = none) :
    ((s.setInflight u ((s.inflight u).erase L)).setDesc v L d).RecordsOk := by
  obtain ⟨hvalid, hsized, hlinks, habs⟩ := h
  obtain ⟨hv, hvc⟩ := (s.hasVcpu_iff v).1 hv
  obtain ⟨hu, hmem, -⟩ := hlinks.mem_of_linked hv hL hlink
  have huc := ((s.hasVcpu_iff u).1 (habs.hasVcpu_of_mem hu hmem)).2
  have hsized' : (s.setInflight u ((s.inflight u).erase L)).Sized := by simpa [State.Sized] using hsized
  refine ⟨hvalid, by simpa [State.Sized] using hsized, ?_, ?_⟩
  · refine hlinks.unlink rfl hv hL hlink (fun w M => ?_) (fun w => ?_)
    · rw [State.desc_setDesc_of_sized hsized' hv hL, State.desc_setInflight]
      split <;> simp [hd]
    · rw [State.inflight_setDesc, State.inflight_setInflight_of_sized hsized hu]
  · exact (habs.setInflight huc _).setDesc (by simpa using hvc) L d

/-- Inject step 4 (44_injection.md R214) links a line that was linked nowhere. -/
theorem State.RecordsOk.injectInsert {s : State} (h : s.RecordsOk) {v L : Nat} (hv : s.hasVcpu v = true)
    (hL : L < s.cfg.nlines) (hnone : (s.desc v L).linked = none) : (injectInsert v L s).RecordsOk := by
  obtain ⟨hvalid, hsized, hlinks, habs⟩ := h
  obtain ⟨hv, hvc⟩ := (s.hasVcpu_iff v).1 hv
  have hsized' : ∀ l, (s.setInflight v l).Sized := fun l => by simpa [State.Sized] using hsized
  refine ⟨hvalid, by simpa [State.Sized, Machine.injectInsert] using hsized, ?_, ?_⟩
  · refine hlinks.link rfl hv hL hnone (fun w M => ?_) (fun w => ?_)
    · rw [Machine.injectInsert, State.desc_setDesc_of_sized (hsized' _) hv hL, State.desc_setInflight]
      split <;> rfl
    · rw [Machine.injectInsert, State.inflight_setDesc, State.inflight_setInflight_of_sized hsized hv]
      split
      next => exact insertByPrio_perm _ _ _ _
      next => exact .refl _
  · exact (habs.setInflight hvc _).setDesc (by simpa using hvc) L _

/-- Inject step 3 (R213) keeps every link. -/
theorem injectRaise_linked (v L : Nat) (s : State) (w M : Nat) :
    ((injectRaise v L s).desc w M).linked = (s.desc w M).linked := by
  simp only [injectRaise, State.emitAll_desc]
  have hd : ((s.desc v L).snapshot (s.priorityOf v L)).linked = (s.desc v L).linked := rfl
  exact State.setDesc_keeps Descriptor.linked hd w M

theorem injectRaise_created (v L : Nat) (s : State) (u : Nat) :
    ((injectRaise v L s).vcpuAt u).created = (s.vcpuAt u).created := by
  simp only [injectRaise, State.emitAll_vcpuAt, State.created_setDesc]

theorem State.RecordsOk.injectRaise {s : State} (h : s.RecordsOk) {v L : Nat} (hv : (s.vcpuAt v).created = true) :
    (injectRaise v L s).RecordsOk :=
  (h.setDesc (L := L) (d := (s.desc v L).snapshot (s.priorityOf v L)) hv rfl).congr rfl rfl rfl rfl rfl

/-- Steps 1 to 4 of an injection (44_injection.md R211 to R214). -/
theorem State.RecordsOk.injectLink {s : State} (h : s.RecordsOk) {v L : Nat} (hv : s.hasVcpu v = true)
    (hL : L < s.cfg.nlines) : (injectLink v L s).1.RecordsOk := by
  obtain ⟨hv', hvc⟩ := (s.hasVcpu_iff v).1 hv
  rcases injectLink_cases v L s with ⟨u, -, e⟩ | ⟨-, -, e⟩ | ⟨hnone, -, e⟩ <;> rw [e]
  · exact (h.setDesc (L := L) (d := (s.desc v L).retrigger) hvc rfl).congr rfl rfl rfl rfl rfl
  · exact h
  · refine (h.injectRaise hvc).injectInsert ?_ hL ((injectRaise_linked v L s v L).trans hnone)
    exact ((Machine.injectRaise v L s).hasVcpu_iff v).2 ⟨hv', (injectRaise_created v L s v).trans hvc⟩

/-- The enable step (43_enable_disable.md R191 to R193). -/
theorem State.RecordsOk.enableStep {s : State} (h : s.RecordsOk) {v : Nat} (hv : (s.vcpuAt v).created = true)
    (L : Nat) : (enableStep v L s).1.RecordsOk := by
  have hd : (s.setDesc v L (s.desc v L).enable).RecordsOk := h.setDesc hv rfl
  simp only [Machine.enableStep]
  split <;> exact hd.congr rfl rfl rfl rfl rfl

/-- The disable step (R195). -/
theorem State.RecordsOk.disableStep {s : State} (h : s.RecordsOk) {v L : Nat} (hv : s.hasVcpu v = true)
    (hL : L < s.cfg.nlines) : (disableStep v L s).RecordsOk := by
  simp only [Machine.disableStep]
  cases hlink : (s.desc v L).linked with
  | some u =>
    exact (h.unlink (d := (s.desc v L).disable) hv hL hlink rfl).congr rfl rfl rfl rfl rfl
  | none =>
    have hd : (s.setDesc v L (s.desc v L).disable).RecordsOk := h.setDesc ((s.hasVcpu_iff v).1 hv).2 hlink.symm
    exact hd.congr rfl rfl rfl rfl rfl

/-! ### The vCPU life cycle (46_ports_lifecycle.md R255, R256) -/

theorem State.RecordsOk.createVcpu {s : State} (h : s.RecordsOk) {v : Nat} (hv : v < s.cfg.nvcpu)
    (hc : (s.vcpuAt v).created = false) : (s.setVcpu v (VcpuState.fresh v)).RecordsOk := by
  obtain ⟨hvalid, hsized, hlink, habs⟩ := h
  have hlen : v < s.vcpu.length := by obtain ⟨-, -, hvcpu, -⟩ := hsized; omega
  obtain ⟨hd, hi⟩ := State.setVcpu_fresh_lines hlen (habs v hv hc)
  exact ⟨hvalid, by simpa [State.Sized] using hsized, hlink.congr rfl (fun w L => by rw [hd]) hi,
    habs.setVcpu v rfl⟩

/-- A teardown unlinks what its list holds, and no list holds a line of another vCPU's (R256). -/
theorem State.LinkageOk.teardown {s : State} (h : s.LinkageOk) {v : Nat} (hv : v < s.cfg.nvcpu)
    (hlen : v < s.vcpu.length) : (s.teardown v).LinkageOk := by
  change (∀ w < s.cfg.nvcpu, _) ∧ ∀ w < s.cfg.nvcpu, ∀ L < s.cfg.nlines, _ ∧ ∀ u < s.cfg.nvcpu, _
  simp only [State.teardown_inflight hlen, State.teardown_desc hlen]
  refine ⟨fun w hw => ?_, fun w hw L hL => ?_⟩
  · split
    next => simp
    next => exact h.1 w hw
  · obtain ⟨hall, hiff⟩ := h.2 w hw L hL
    by_cases hL32 : L < 32
    · simp only [hL32, if_true, true_implies]
      split
      next hwv =>
        refine ⟨rfl, fun u _ => ?_⟩
        split
        next => simp [Descriptor.zero]
        next huv => simp [Descriptor.zero, hwv, huv]
      next hwv =>
        refine ⟨hall, fun u hu => ?_⟩
        rw [hiff u hu]
        split
        next huv => simp [hL32, huv, Ne.symm hwv]
        next => simp [hL32]
    · simp only [hL32, if_false, false_implies, and_true] at hiff ⊢
      split
      next hmem =>
        have hlinked := (hiff v hv).2 hmem
        refine ⟨rfl, fun u hu => ?_⟩
        split
        next => simp [Descriptor.release]
        next huv =>
          have : L ∉ s.inflight u := fun hmem' => huv (by
            have := (hiff u hu).2 hmem'
            rw [hlinked] at this
            exact (Option.some.inj this).symm)
          simp [Descriptor.release, this]
      next hmem =>
        refine ⟨hall, fun u hu => ?_⟩
        split
        next huv => subst huv; simp [hiff u hu, hmem]
        next => exact hiff u hu

theorem State.RecordsOk.teardown {s : State} (h : s.RecordsOk) {v : Nat} (hv : v < s.cfg.nvcpu) :
    (s.teardown v).RecordsOk := by
  obtain ⟨hvalid, hsized, hlink, habs⟩ := h
  have hlen : v < s.vcpu.length := by obtain ⟨-, -, hvcpu, -⟩ := hsized; omega
  refine ⟨hvalid, by simpa [State.Sized, State.teardown, releaseShared] using hsized, hlink.teardown hv hlen, ?_⟩
  intro w hw hc
  rw [State.teardown_vcpuAt hlen] at hc ⊢
  split
  next => rfl
  next hwv => rw [if_neg hwv] at hc; exact habs w hw hc

end Sys2Proof.Machine

/-! ## The operations in progress -/

namespace Sys2Proof.Machine

/-! ### Operations in progress (10_state.md R41, 46_ports_lifecycle.md R261) -/

theorem linesOk_iff (c : Config) (m : Word) (n : Nat) :
    linesOk c m n = true ↔ ∀ i, m.getLsbD i = true → 32 * n + i < c.nlines := by
  simp only [linesOk, List.all_eq_true, List.mem_range, Bool.or_eq_true, Bool.not_eq_true', decide_eq_true_eq]
  constructor
  · intro h i hi
    rcases h i (BitVec.lt_of_getLsbD hi) with h | h
    · simp [h] at hi
    · exact h
  · intro h i _
    cases hi : m.getLsbD i with
    | false => exact .inl rfl
    | true => exact .inr (h i hi)

theorem linesOk_clearBit {c : Config} {m : Word} {n : Nat} (h : linesOk c m n = true) (i : Nat) :
    linesOk c (clearBit m i) n = true := by
  rw [linesOk_iff] at h ⊢
  intro j hj
  rw [clearBit_getLsbD, Bool.and_eq_true] at hj
  exact h j hj.1

/-- The written bits of valid lines name lines of the domain (40_rank_store.md R104). -/
theorem linesOk_of_validMask {c : Config} {m : Word} {n : Nat}
    (h : ∀ i, m.getLsbD i = true → (validMask c n).getLsbD i = true) : linesOk c m n = true := by
  rw [linesOk_iff]
  intro i hi
  have hv := h i hi
  rw [validMask_getLsbD c n i (BitVec.lt_of_getLsbD hi)] at hv
  simpa only [decide_eq_true_eq] using hv

theorem Task.ok_iff (s : State) (x : Task) :
    x.ok s = true ↔ x.isDone = false ∧ (∀ v, x.accessor = some v → s.hasVcpu v = true) ∧ x.inj.ok s = true ∧
      x.work.ok s x.accessor = true := by
  simp only [Task.ok, Bool.and_eq_true, Bool.not_eq_true', Option.all_eq_true, and_assoc]

/-- What an operation names goes on existing while the vCPUs do. -/
theorem Task.ok_mono {s t : State} {x : Task} (hcfg : t.cfg = s.cfg)
    (hv : ∀ v, s.hasVcpu v = true → t.hasVcpu v = true) (h : x.ok s = true) : x.ok t = true := by
  rw [Task.ok_iff] at h ⊢
  obtain ⟨hdone, hacc, hinj, hwork⟩ := h
  refine ⟨hdone, fun v e => hv v (hacc v e), ?_, ?_⟩
  · cases hx : x.inj with
    | none => rfl
    | link v L =>
      simp only [hx, Injection.ok, Bool.and_eq_true, hcfg] at hinj ⊢
      exact ⟨hv v hinj.1, hinj.2⟩
    | notify v =>
      simp only [hx, Injection.ok] at hinj ⊢
      exact hv v hinj
  · cases hx : x.work <;> simp_all [Work.ok]

/-- The same operations in progress, over records that still hold what they name. -/
theorem State.TasksOk.mono {s t : State} (h : s.TasksOk) (hcfg : t.cfg = s.cfg)
    (hv : ∀ v, s.hasVcpu v = true → t.hasVcpu v = true) (htasks : t.tasks = s.tasks)
    (hlive : t.terminated = true ∨ t.phase ≠ .live → s.tasks = []) : t.TasksOk := by
  obtain ⟨hok, hpair, -⟩ := h
  rw [State.TasksOk, htasks]
  exact ⟨fun x hx => Task.ok_mono hcfg hv (hok x hx), hpair, hlive⟩

theorem State.TasksOk.of_nil {s : State} (h : s.tasks = []) : s.TasksOk := by
  simp [State.TasksOk, h]

/-- While an operation is in progress, the domain is live and not terminated (41_mmio_dispatch.md R139). -/
theorem State.TasksOk.live {s : State} (h : s.TasksOk) (hne : s.tasks ≠ []) :
    s.phase = .live ∧ s.terminated = false := by
  obtain ⟨-, -, hlive⟩ := h
  constructor
  · by_contra hp; exact hne (hlive (.inr hp))
  · by_contra ht; exact hne (hlive (.inl (by simpa using ht)))

/-- A new operation joins, of an accessor with no access in progress or of none (R261). -/
theorem State.TasksOk.append {s : State} (h : s.TasksOk) {x : Task} (hx : x.ok s = true) (hphase : s.phase = .live)
    (hterm : s.terminated = false)
    (hfree : ∀ v, x.accessor = some v → ∀ y ∈ s.tasks, y.accessor ≠ some v) :
    State.TasksOk { s with tasks := s.tasks ++ [x] } := by
  obtain ⟨hok, hpair, -⟩ := h
  refine ⟨?_, ?_, by simp [hphase, hterm]⟩
  · intro y hy
    rcases List.mem_append.1 hy with hy | hy
    · exact hok y hy
    · rw [List.mem_singleton.1 hy]; exact hx
  · refine List.pairwise_append.2 ⟨hpair, List.pairwise_singleton _ _, fun y hy z hz => ?_⟩
    rw [List.mem_singleton.1 hz]
    by_cases hy0 : y.accessor = none
    · exact .inl hy0
    · obtain ⟨v, hv⟩ := Option.ne_none_iff_exists'.1 hy0
      exact .inr fun e => hfree v (e ▸ hv) y hy hv

/-- An operation goes on with what it has left, or leaves. -/
theorem State.TasksOk.putTask {s : State} (h : s.TasksOk) {k : Nat} {x y : Task} (hx : s.tasks[k]? = some x)
    (hacc : y.accessor = x.accessor) (hy : y.isDone = false → y.ok s = true) : (s.putTask k y).TasksOk := by
  obtain ⟨hok, hpair, hlive⟩ := h
  rcases s.putTask_cases k y with ⟨-, e⟩ | ⟨hdone, e⟩ <;> rw [e]
  · rw [State.complete_eq]
    refine ⟨fun z hz => hok z (List.mem_of_mem_eraseIdx hz), hpair.sublist (List.eraseIdx_sublist _ _), fun hl => ?_⟩
    simp only [hlive hl, List.eraseIdx_nil]
  · refine ⟨fun z hz => ?_, ?_, fun hl => ?_⟩
    · rcases List.mem_or_eq_of_mem_set hz with hz | rfl
      · exact hok z hz
      · exact hy hdone
    · have hmap : (s.tasks.set k y).map Task.accessor = s.tasks.map Task.accessor := by
        rw [List.map_set, hacc]
        apply List.ext_getElem?
        intro j
        rw [List.getElem?_set]
        split
        next hj =>
          subst hj
          obtain ⟨hk, rfl⟩ := List.getElem?_eq_some_iff.1 hx
          simp [hk]
        next => rfl
      have hpair' : (s.tasks.map Task.accessor).Pairwise (fun a b => a = none ∨ a ≠ b) := List.pairwise_map.2 hpair
      exact List.pairwise_map.1 (hmap ▸ hpair')
    · simp [hlive hl] at hx

/-! ### What the next step of an operation in progress names -/

theorem Work.ok_enable {s : State} {acc : Option Nat} {v n : Nat} {m : Word} :
    (Work.enable v m n).ok s acc = true ↔ acc = some v ∧ linesOk s.cfg m n = true := by
  simp [Work.ok]

theorem Work.ok_disable {s : State} {acc : Option Nat} {v n : Nat} {m : Word} :
    (Work.disable v m n).ok s acc = true ↔ acc = some v ∧ linesOk s.cfg m n = true := by
  simp [Work.ok]

theorem Work.ok_fanOut {s : State} {acc : Option Nat} {m : Byte} {id : Nat} :
    (Work.fanOut m id).ok s acc = true ↔ acc.isSome = true ∧ id < 16 := by
  simp [Work.ok]

theorem Injection.ok_link {s : State} {v L : Nat} :
    (Injection.link v L).ok s = true ↔ s.hasVcpu v = true ∧ L < s.cfg.nlines := by
  simp [Injection.ok]

/-- The lowest bit of a sound mask names a line of the domain. -/
theorem line_lt_of_lowestBit {c : Config} {m : Word} {n i : Nat} (h : linesOk c m n = true)
    (hi : lowestBit m = some i) : 32 * n + i < c.nlines :=
  (linesOk_iff c m n).1 h i ((lowestBit_eq_some m i).1 hi).1

theorem hasVcpu_of_not_badTarget {s : State} {j : Nat} (h : badTarget s j = false) : s.hasVcpu j = true := by
  simp only [badTarget, Bool.not_eq_false', Bool.and_eq_true] at h
  simp only [State.hasVcpu, Bool.and_eq_true]
  exact h.1

/-- An enable step leaves a forced injection of its own line, or none (43_enable_disable.md R192). -/
theorem enableStep_injection (v L : Nat) (s : State) :
    (enableStep v L s).2 = .link v L ∨ (enableStep v L s).2 = .none := by
  simp only [enableStep]
  split
  · exact .inl rfl
  · exact .inr rfl

/-- What an operation has left after its next step is sound again (10_state.md R41). -/
theorem taskStep_ok {x : Task} {s : State} (h : x.ok s = true) (hd : (taskStep x s).2.isDone = false) :
    (taskStep x s).2.ok s = true := by
  obtain ⟨-, hacc, hinj, hwork⟩ := (Task.ok_iff s x).1 h
  suffices hx : (taskStep x s).2.accessor = x.accessor ∧ (taskStep x s).2.inj.ok s = true ∧
      (taskStep x s).2.work.ok s x.accessor = true by
    obtain ⟨ha, hi, hw⟩ := hx
    exact (Task.ok_iff s _).2 ⟨hd, by rwa [ha], hi, by rwa [ha]⟩
  rcases taskStep_cases x s with ⟨v, L, hl, e⟩ | ⟨v, -, e⟩ | ⟨-, ⟨v, m, n, i, hw, hi, e⟩ | ⟨v, m, n, i, hw, hi, e⟩ |
    ⟨m, id, j, hw, hj, -, e⟩ | ⟨m, id, j, hw, hj, ht, e⟩ | ⟨-, e⟩⟩ <;> rw [e]
  · rw [hl, Injection.ok_link] at hinj
    refine ⟨rfl, ?_, hwork⟩
    dsimp only
    split
    · exact hinj.1
    · rfl
  · exact ⟨rfl, rfl, hwork⟩
  · rw [hw, Work.ok_enable] at hwork
    obtain ⟨hv, hm⟩ := hwork
    refine ⟨rfl, ?_, Work.ok_enable.2 ⟨hv, linesOk_clearBit hm i⟩⟩
    rcases enableStep_injection v (32 * n + i) s with hl | hl <;> rw [hl]
    · exact Injection.ok_link.2 ⟨hacc v hv, line_lt_of_lowestBit hm hi⟩
    · rfl
  · rw [hw, Work.ok_disable] at hwork
    obtain ⟨hv, hm⟩ := hwork
    exact ⟨rfl, rfl, Work.ok_disable.2 ⟨hv, linesOk_clearBit hm i⟩⟩
  · rw [hw, Work.ok_fanOut] at hwork
    exact ⟨rfl, rfl, Work.ok_fanOut.2 hwork⟩
  · rw [hw, Work.ok_fanOut] at hwork
    obtain ⟨hv, hid⟩ := hwork
    refine ⟨rfl, Injection.ok_link.2 ⟨hasVcpu_of_not_badTarget ht, ?_⟩, Work.ok_fanOut.2 ⟨hv, hid⟩⟩
    simp only [Config.nlines]; omega
  · exact ⟨rfl, rfl, rfl⟩

theorem taskStep_accessor (x : Task) (s : State) : (taskStep x s).2.accessor = x.accessor := by
  rcases taskStep_cases x s with ⟨_, _, -, e⟩ | ⟨_, -, e⟩ | ⟨-, ⟨_, _, _, _, -, -, e⟩ | ⟨_, _, _, _, -, -, e⟩ |
    ⟨_, _, _, -, -, -, e⟩ | ⟨_, _, _, -, -, -, e⟩ | ⟨-, e⟩⟩ <;> rw [e]

/-- The next step of a sound operation: an injection into an existing vCPU, an enable or disable step of a line of the
domain by an existing accessor, or events only. -/
theorem taskStep_state_cases {x : Task} {s : State} (h : x.ok s = true) :
    (∃ v L, s.hasVcpu v = true ∧ L < s.cfg.nlines ∧ (taskStep x s).1 = (injectLink v L s).1) ∨
    (∃ v L, s.hasVcpu v = true ∧ L < s.cfg.nlines ∧ (taskStep x s).1 = (enableStep v L s).1) ∨
    (∃ v L, s.hasVcpu v = true ∧ L < s.cfg.nlines ∧ (taskStep x s).1 = disableStep v L s) ∨
    ∃ es, (taskStep x s).1 = s.emitAll es := by
  obtain ⟨-, hacc, hinj, hwork⟩ := (Task.ok_iff s x).1 h
  have hnil : s.emitAll [] = s := by simp [State.emitAll]
  rcases taskStep_cases x s with ⟨v, L, hl, e⟩ | ⟨v, -, e⟩ | ⟨-, ⟨v, m, n, i, hw, hi, e⟩ | ⟨v, m, n, i, hw, hi, e⟩ |
    ⟨m, id, j, -, -, -, e⟩ | ⟨m, id, j, -, -, -, e⟩ | ⟨-, e⟩⟩ <;> rw [e]
  · rw [hl, Injection.ok_link] at hinj
    exact .inl ⟨v, L, hinj.1, hinj.2, rfl⟩
  · exact .inr (.inr (.inr ⟨_, rfl⟩))
  · rw [hw, Work.ok_enable] at hwork
    obtain ⟨hv, hm⟩ := hwork
    exact .inr (.inl ⟨v, _, hacc v hv, line_lt_of_lowestBit hm hi, rfl⟩)
  · rw [hw, Work.ok_disable] at hwork
    obtain ⟨hv, hm⟩ := hwork
    exact .inr (.inr (.inl ⟨v, _, hacc v hv, line_lt_of_lowestBit hm hi, rfl⟩))
  · exact .inr (.inr (.inr ⟨_, rfl⟩))
  · exact .inr (.inr (.inr ⟨[], hnil.symm⟩))
  · exact .inr (.inr (.inr ⟨[], hnil.symm⟩))

/-! ### Line operations create and remove no vCPU and write no rank -/

/-- The same vCPUs exist in `t` as in `s`, and every rank is the same. -/
def State.SameRanks (s t : State) : Prop :=
  (∀ u, (t.vcpuAt u).created = (s.vcpuAt u).created) ∧ ∀ u q, t.rankAt u q = s.rankAt u q

theorem injectLink_sameRanks (v L : Nat) (s : State) : s.SameRanks (injectLink v L s).1 := by
  rcases injectLink_cases v L s with ⟨_, -, e⟩ | ⟨-, -, e⟩ | ⟨-, -, e⟩ <;> rw [e]
  · exact ⟨by simp, by simp⟩
  · exact ⟨fun _ => rfl, fun _ _ => rfl⟩
  · exact ⟨by simp [injectInsert, injectRaise], by simp [injectInsert, injectRaise]⟩

theorem enableStep_sameRanks (v L : Nat) (s : State) : s.SameRanks (enableStep v L s).1 := by
  simp only [enableStep]
  split <;> exact ⟨by simp, by simp⟩

theorem disableStep_sameRanks (v L : Nat) (s : State) : s.SameRanks (disableStep v L s) := by
  simp only [disableStep]
  cases (s.desc v L).linked <;> exact ⟨by simp, by simp⟩

theorem taskStep_sameRanks (x : Task) (s : State) : s.SameRanks (taskStep x s).1 := by
  rcases taskStep_cases x s with ⟨v, L, -, e⟩ | ⟨_, -, e⟩ | ⟨-, ⟨v, _, n, i, -, -, e⟩ | ⟨v, _, n, i, -, -, e⟩ |
    ⟨_, _, _, -, -, -, e⟩ | ⟨_, _, _, -, -, -, e⟩ | ⟨-, e⟩⟩ <;> rw [e]
  · exact injectLink_sameRanks v L s
  · exact ⟨fun _ => rfl, fun _ _ => rfl⟩
  · exact enableStep_sameRanks v _ s
  · exact disableStep_sameRanks v _ s
  all_goals exact ⟨fun _ => rfl, fun _ _ => rfl⟩

/-- A step of an operation in progress creates and removes no vCPU and writes no rank (70_reset_and_hazards.md R341). -/
theorem advance_sameRanks {k : Nat} {s t : State} (h : advance k s = .next t) : s.SameRanks t := by
  obtain ⟨x, -, rfl⟩ := advance_next h
  rw [((taskStep x s).1.putTask_leaves k (taskStep x s).2).2]
  exact taskStep_sameRanks x s

theorem injectLink_frame (v L : Nat) (s : State) : (injectLink v L s).1 = { s with
    vcpu := (injectLink v L s).1.vcpu, spi := (injectLink v L s).1.spi, history := (injectLink v L s).1.history } :=
  taskStep_frame ⟨none, none, .link v L, .nothing⟩ s

end Sys2Proof.Machine

/-! ## The structural invariant -/

namespace Sys2Proof.Machine

/-- The structural invariant of a new domain (46_ports_lifecycle.md R254, 70_reset_and_hazards.md R330). -/
theorem State.created_inv {c : Config} (hc : c.valid = true) : (State.created c).Inv := by
  have hsized : (State.created c).Sized := by simp [State.Sized, State.created]
  refine ⟨hc, hsized, ⟨fun v _ => by simp, fun v _ L _ => by simp [Descriptor.zero]⟩, ?_, fun v _ _ => by simp⟩
  simp [State.TasksOk]

/-! ### Every step keeps the structural invariant -/

theorem advance_recordsOk {k : Nat} {s t : State} (hr : s.RecordsOk) (hs : s.TasksOk) (h : advance k s = .next t) :
    t.RecordsOk := by
  obtain ⟨x, hx, rfl⟩ := advance_next h
  have hstep : (taskStep x s).1.RecordsOk := by
    rcases taskStep_state_cases (hs.1 x (List.mem_of_getElem? hx)) with ⟨v, L, hv, hL, e⟩ | ⟨v, L, hv, -, e⟩ |
      ⟨v, L, hv, hL, e⟩ | ⟨es, e⟩ <;> rw [e]
    · exact hr.injectLink hv hL
    · exact hr.enableStep ((s.hasVcpu_iff v).1 hv).2 L
    · exact hr.disableStep hv hL
    · exact hr.congr rfl rfl rfl rfl rfl
  have e := ((taskStep x s).1.putTask_leaves k (taskStep x s).2).2
  refine hstep.congr ?_ ?_ ?_ ?_ ?_ <;> rw [e]

theorem State.hasVcpu_congr {s t : State} (hcfg : t.cfg = s.cfg)
    (hc : ∀ v, (t.vcpuAt v).created = (s.vcpuAt v).created) (v : Nat) : t.hasVcpu v = s.hasVcpu v := by
  simp only [State.hasVcpu, hcfg, hc]

theorem advance_tasksOk {k : Nat} {s t : State} (hs : s.TasksOk) (h : advance k s = .next t) : t.TasksOk := by
  obtain ⟨x, hx, rfl⟩ := advance_next h
  have hcfg : (taskStep x s).1.cfg = s.cfg := by rw [taskStep_frame]
  have htasks : (taskStep x s).1.tasks = s.tasks := by rw [taskStep_frame]
  have hv : ∀ v, s.hasVcpu v = true → (taskStep x s).1.hasVcpu v = true :=
    fun v hv => by rw [State.hasVcpu_congr hcfg (taskStep_sameRanks x s).1, hv]
  have hstep : (taskStep x s).1.TasksOk := by
    refine hs.mono hcfg hv htasks fun hl => hs.2.2 ?_
    rwa [taskStep_frame] at hl
  exact hstep.putTask (by rw [htasks]; exact hx) (taskStep_accessor x s)
    fun hd => Task.ok_mono hcfg hv (taskStep_ok (hs.1 x (List.mem_of_getElem? hx)) hd)

theorem advance_inv {k : Nat} {s t : State} (hs : s.Inv) (h : advance k s = .next t) : t.Inv := by
  obtain ⟨hr, ht⟩ := (s.inv_iff).1 hs
  exact (t.inv_iff).2 ⟨advance_recordsOk hr ht h, advance_tasksOk ht h⟩

/-- `t` has the operations in progress of `s`, and at most one more, a sound access of vCPU `v`. -/
def State.GainsTask (s t : State) (v : Nat) : Prop :=
  t.tasks = s.tasks ∨ ∃ y : Task, t.tasks = s.tasks ++ [y] ∧ y.accessor = some v ∧ y.ok s = true

theorem State.GainsTask.begin {s t : State} {v : Nat} (hv : s.hasVcpu v = true) (cp : Option Nat) {w : Work}
    (ht : t.tasks = s.tasks) (hw : w.ok s (some v) = true) : s.GainsTask (t.begin ⟨some v, cp, .none, w⟩) v := by
  rcases t.begin_cases ⟨some v, cp, .none, w⟩ with ⟨-, e⟩ | ⟨hd, e⟩ <;> rw [e]
  · rw [State.complete_eq]; exact .inl ht
  · refine .inr ⟨_, congrArg (· ++ _) ht, rfl, (Task.ok_iff s _).2 ⟨hd, ?_, rfl, hw⟩⟩
    rintro u ⟨⟩; exact hv

theorem sgiFanOut_gainsTask {s : State} {v : Nat} (hv : s.hasVcpu v = true) (m : Byte) (id : BitVec 4) :
    s.GainsTask (sgiFanOut v m id.toNat s) v :=
  .begin hv _ rfl (Work.ok_fanOut.2 ⟨rfl, id.isLt⟩)

/-- An access leaves the operations in progress as they were, but that a sound one of its own may join them. -/
theorem performed_gainsTask {i : Instr} {s : State} (hr : s.Ready i.accessor.toNat) :
    s.GainsTask (performed i s) i.accessor.toNat := by
  obtain ⟨-, -, hv, hc, -⟩ := hr
  have hacc : s.hasVcpu i.accessor.toNat = true := (s.hasVcpu_iff _).2 ⟨hv, hc⟩
  cases i
  case wrIsenabler n a =>
    refine .begin hacc _ rfl (Work.ok_enable.2 ⟨rfl, linesOk_of_validMask fun j hj => ?_⟩)
    simp only [newlyEnabled, BitVec.getLsbD_and, Bool.and_eq_true] at hj
    exact hj.1.2
  case wrIcenabler n a =>
    refine .begin hacc _ rfl (Work.ok_disable.2 ⟨rfl, linesOk_of_validMask fun j hj => ?_⟩)
    simp only [newlyDisabled, BitVec.getLsbD_and, Bool.and_eq_true] at hj
    exact hj.1.2
  case wrSgirList => exact sgiFanOut_gainsTask hacc _ _
  case wrSgirOthers => exact sgiFanOut_gainsTask hacc _ _
  case wrSgirSelf => exact sgiFanOut_gainsTask hacc _ _
  case wrSgir a =>
    simp only [performed]
    rcases dispatchSgi_cases a.v.toNat a.val s with ⟨m, id, e⟩ | e <;> rw [e]
    · exact sgiFanOut_gainsTask hacc m id
    · exact .inl rfl
  all_goals exact .inl rfl

theorem exec_recordsOk {i : Instr} {s t : State} (hs : s.RecordsOk) (h : exec i s = .next t) : t.RecordsOk := by
  obtain ⟨⟨-, -, -, hc, -⟩, -⟩ := exec_next h
  rcases exec_records h with e | ⟨r, R, e⟩ <;> rw [e]
  · exact hs.congr rfl rfl rfl rfl rfl
  · exact (hs.setRank hc r R).congr rfl rfl rfl rfl rfl

theorem exec_tasksOk {i : Instr} {s t : State} (hs : s.TasksOk) (h : exec i s = .next t) : t.TasksOk := by
  have hcfg := (exec_phase_cfg h).2
  have hcreated := exec_created h
  have hv : ∀ v, s.hasVcpu v = true → t.hasVcpu v = true :=
    fun v hv => by rw [State.hasVcpu_congr hcfg hcreated, hv]
  obtain ⟨hready, ⟨-, rfl⟩ | ⟨-, -, rfl⟩ | ⟨-, -, rfl⟩⟩ := exec_next h
  · exact hs.mono rfl hv rfl hs.2.2
  · exact .of_nil rfl
  · have hlive : (performed i s).phase = s.phase ∧ (performed i s).terminated = s.terminated := by
      rw [performed_frame]
      rcases rankPhase_cases i s with e | ⟨r, R, e⟩ <;> rw [e] <;> exact ⟨rfl, rfl⟩
    obtain ⟨hphase, hterm⟩ := hlive
    rcases performed_gainsTask hready with e | ⟨y, e, hacc, hy⟩
    · exact hs.mono hcfg hv e (by rw [hphase, hterm]; exact hs.2.2)
    · obtain ⟨hp, ht, -, -, hfree⟩ := hready
      have hold : State.TasksOk { performed i s with tasks := s.tasks } :=
        hs.mono hcfg hv rfl (by rw [hphase, hterm]; exact hs.2.2)
      have hnew := hold.append (x := y) (Task.ok_mono hcfg hv hy) (hphase.trans hp) (hterm.trans ht) (by
        intro v hyv z hz
        rw [hacc] at hyv
        rw [← hyv]
        exact hfree z hz)
      have : performed i s = { performed i s with tasks := s.tasks ++ [y] } := by rw [← e]
      rw [this]
      exact hnew

theorem exec_inv {i : Instr} {s t : State} (hs : s.Inv) (h : exec i s = .next t) : t.Inv := by
  obtain ⟨hr, ht⟩ := (s.inv_iff).1 hs
  exact (t.inv_iff).2 ⟨exec_recordsOk hr h, exec_tasksOk ht h⟩

theorem portInject_inv {v L : Nat} {cp : Option Nat} {s t : State} (hs : s.Inv) (h : portInject v L cp s = .next t) :
    t.Inv := by
  obtain ⟨hr, ht⟩ := (s.inv_iff).1 hs
  obtain ⟨⟨hp, hterm, hv, hc, hL⟩, rfl⟩ := portInject_next h
  have hvcpu : s.hasVcpu v = true := (s.hasVcpu_iff v).2 ⟨hv, hc⟩
  have hrecords : (injectLink v L s).1.RecordsOk := hr.injectLink hvcpu hL
  have hkeep : ∀ u, (injectLink v L s).1.hasVcpu u = s.hasVcpu u :=
    State.hasVcpu_congr (by rw [injectLink_frame]) (injectLink_sameRanks v L s).1
  have htasks : (injectLink v L s).1.TasksOk := by
    refine ht.mono (by rw [injectLink_frame]) (fun u hu => (hkeep u).trans hu) (by rw [injectLink_frame]) fun hl => ?_
    rw [injectLink_frame] at hl
    exact ht.2.2 hl
  refine (State.inv_iff _).2 ⟨?_, ?_⟩
  · refine hrecords.congr ?_ ?_ ?_ ?_ ?_ <;> rw [State.begin_frame]
  · rcases State.begin_cases (injectLink v L s).1
      ⟨none, cp, if (injectLink v L s).2 then .notify v else .none, .nothing⟩ with ⟨-, e⟩ | ⟨hd, e⟩ <;> rw [e]
    · exact htasks
    · refine htasks.append ((Task.ok_iff _ _).2 ⟨hd, fun u hu => (Option.some_ne_none u hu.symm).elim, ?_, rfl⟩)
        (by rw [injectLink_frame]; exact hp) (by rw [injectLink_frame]; exact hterm)
        (fun u hu => (Option.some_ne_none u hu.symm).elim)
      dsimp only
      split
      · exact (hkeep v).trans hvcpu
      · rfl

/-- A write of the records that creates and removes no vCPU. -/
theorem State.Inv.of_recordsOk {s t : State} (hs : s.Inv) (ht : t.RecordsOk) (hcfg : t.cfg = s.cfg)
    (hc : ∀ v, (t.vcpuAt v).created = (s.vcpuAt v).created) (htasks : t.tasks = s.tasks) (hphase : t.phase = s.phase)
    (hterm : t.terminated = s.terminated) : t.Inv := by
  obtain ⟨-, h⟩ := (s.inv_iff).1 hs
  refine (t.inv_iff).2 ⟨ht, h.mono hcfg (fun v hv => ?_) htasks (by rw [hphase, hterm]; exact h.2.2)⟩
  rw [State.hasVcpu_congr hcfg hc, hv]

theorem portCreateVcpu_inv {v : Nat} {s t : State} (hs : s.Inv) (h : portCreateVcpu v s = .next t) : t.Inv := by
  obtain ⟨hr, ht⟩ := (s.inv_iff).1 hs
  obtain ⟨-, -, hv, hc, rfl⟩ := portCreateVcpu_next h
  refine (State.inv_iff _).2 ⟨hr.createVcpu hv hc, ht.mono rfl (fun u hu => ?_) rfl ht.2.2⟩
  rw [State.hasVcpu_iff] at hu ⊢
  refine ⟨hu.1, ?_⟩
  rw [State.vcpuAt_setVcpu]
  split
  · rfl
  · exact hu.2

theorem portStep_inv {op : PortOp} {s t : State} (hs : s.Inv) (h : portStep op s = .next t) : t.Inv := by
  obtain ⟨hr, ht⟩ := (s.inv_iff).1 hs
  cases op with
  | inject v L cp => exact portInject_inv hs h
  | ciVisible u L b =>
    obtain ⟨⟨-, -, -, hc, -⟩, -, rfl⟩ := portVisible_next h
    exact hs.of_recordsOk (hr.setDesc hc rfl) rfl (by simp) rfl rfl rfl
  | ciActive u L b =>
    obtain ⟨⟨-, -, -, hc, -⟩, -, rfl⟩ := portActive_next h
    exact hs.of_recordsOk (hr.setDesc hc rfl) rfl (by simp) rfl rfl rfl
  | ciRetire u L =>
    obtain ⟨⟨-, -, hv, hc, hL⟩, hlink, rfl⟩ := portRetire_next h
    exact hs.of_recordsOk (hr.unlink ((s.hasVcpu_iff u).2 ⟨hv, hc⟩) hL hlink rfl) rfl (by simp) rfl rfl rfl
  | createDomain c =>
    obtain ⟨-, hc, rfl⟩ := portCreateDomain_next h
    obtain ⟨hr', -⟩ := (State.inv_iff _).1 (State.created_inv hc)
    exact (State.inv_iff _).2 ⟨hr'.congr rfl rfl rfl rfl rfl, .of_nil rfl⟩
  | createVcpu v => exact portCreateVcpu_inv hs h
  | destroyVcpu v =>
    obtain ⟨hv, htasks, rfl⟩ := portDestroyVcpu_teardown h
    exact (State.inv_iff _).2 ⟨hr.teardown ((s.hasVcpu_iff v).1 hv).1, .of_nil htasks⟩
  | destroyDomain =>
    obtain ⟨-, htasks, rfl⟩ := portDestroyDomain_next h
    exact (State.inv_iff _).2 ⟨hr.congr rfl rfl rfl rfl rfl, .of_nil htasks⟩

theorem envStep_inv {m : EnvMove} {s t : State} (hs : s.Inv) (h : envStep m s = .next t) : t.Inv := by
  obtain ⟨-, -, rfl⟩ := envStep_next h
  obtain ⟨⟨hvalid, hsized, hlink, habs⟩, ht⟩ := (s.inv_iff).1 hs
  have hsized' : (s.setEnv m.vcpu (m.apply (s.envAt m.vcpu))).Sized := by simpa [State.Sized] using hsized
  exact (State.inv_iff _).2 ⟨⟨hvalid, hsized', hlink, habs⟩, ht⟩

/-- The input stream and the noted refusals do not matter to the structural invariant. -/
theorem State.Inv.withInputs {s : State} (hs : s.Inv) (xs : List Input) (rs : List PortRefusal) :
    State.Inv { s with inputs := xs, refusals := rs } := by
  obtain ⟨hr, ht⟩ := (s.inv_iff).1 hs
  exact (State.inv_iff _).2 ⟨hr.congr rfl rfl rfl rfl rfl, ht⟩

/-- Settles O54: each of the parts of a step keeps the invariant, the records by one rule per write and the operations
in progress by what their next step names. -/
theorem stepKeepsInv : Obligations.StepKeepsInv := by
  intro s t hs h
  exact step_keeps (P := State.Inv) (fun _ xs rs hs => hs.withInputs xs rs) (fun _ _ _ => advance_inv)
    (fun _ _ _ _ _ => exec_inv) (fun _ _ _ => portStep_inv) (fun _ _ _ => envStep_inv) hs h

end Sys2Proof.Machine

/-! ## The order of the lists -/

namespace Sys2Proof.Machine

/-! ### The ordering invariant (10_state.md R29) -/

/-- Ordered insertion keeps a sorted list sorted (44_injection.md R217). -/
theorem insertByPrio_sorted (prio : Nat → Byte) (l : List Nat) (L : Nat)
    (h : l.Pairwise (fun x y => prio x ≤ prio y)) :
    (insertByPrio prio l L (prio L)).Pairwise (fun x y => prio x ≤ prio y) := by
  obtain ⟨pre, post, rfl, e, hpre, hpost⟩ := insertByPrio_split prio l L (prio L)
  rw [e]
  obtain ⟨h1, h2, h12⟩ := List.pairwise_append.1 h
  have hle : ∀ x ∈ pre, prio x ≤ prio L := fun x hx => BitVec.not_lt.1 (hpre x hx)
  have hge : ∀ y ∈ post, prio L ≤ prio y := by
    cases post with
    | nil => simp
    | cons z post =>
      have hz : prio L ≤ prio z := BitVec.le_of_lt (hpost z rfl)
      exact List.forall_mem_cons.2 ⟨hz, fun y hy => BitVec.le_trans hz ((List.pairwise_cons.1 h2).1 y hy)⟩
  refine List.pairwise_append.2 ⟨h1, List.pairwise_cons.2 ⟨hge, h2⟩, fun x hx y hy => ?_⟩
  rcases List.mem_cons.1 hy with rfl | hy
  · exact hle x hx
  · exact h12 x hx y hy

/-- Taking lines off the lists and keeping the priorities of the listed lines keeps the lists sorted. -/
theorem State.OrderOk.sublist {s t : State} (h : s.OrderOk) (hcfg : t.cfg = s.cfg)
    (hi : ∀ w, (t.inflight w).Sublist (s.inflight w))
    (hp : ∀ w < s.cfg.nvcpu, ∀ x ∈ s.inflight w, (t.desc w x).prio = (s.desc w x).prio) : t.OrderOk := by
  intro w hw
  rw [hcfg] at hw
  refine ((h w hw).imp_of_mem fun {x y} hx hy hxy => ?_).sublist (hi w)
  rw [hp w hw x hx, hp w hw y hy]
  exact hxy

/-- The ordering invariant reads the parameters, the vCPU records and the shared descriptors only. -/
theorem State.OrderOk.congr {s t : State} (h : s.OrderOk) (hcfg : t.cfg = s.cfg) (hspi : t.spi = s.spi)
    (hvcpu : t.vcpu = s.vcpu) : t.OrderOk := by
  have hat : ∀ v, t.vcpuAt v = s.vcpuAt v := fun v => by simp only [State.vcpuAt, hvcpu]
  refine h.sublist hcfg (fun w => ?_) (fun w _ x _ => ?_)
  · rw [State.inflight, hat]; exact .refl _
  · simp only [State.desc, hat, hspi]

theorem State.created_orderOk (c : Config) : (State.created c).OrderOk := by
  intro v _
  rw [State.created_inflight]
  exact .nil

/-- A descriptor write that keeps the priority snapshot. -/
theorem State.OrderOk.setDesc {s : State} (h : s.OrderOk) {v L : Nat} {d : Descriptor}
    (hd : d.prio = (s.desc v L).prio) : (s.setDesc v L d).OrderOk :=
  h.sublist rfl (fun w => by rw [State.inflight_setDesc])
    fun w _ x _ => State.setDesc_keeps Descriptor.prio hd w x

/-- Taking one line off one list. -/
theorem State.OrderOk.eraseInflight {s : State} (h : s.OrderOk) (u L : Nat) :
    (s.setInflight u ((s.inflight u).erase L)).OrderOk := by
  refine h.sublist rfl (fun w => ?_) (fun w _ x _ => by rw [State.desc_setInflight])
  rw [State.inflight_setInflight]
  split
  next hw => obtain ⟨rfl, -⟩ := hw; exact List.erase_sublist
  next => exact .refl _

/-- Inject step 3 (R213) writes the priority of a line that is in no list. -/
theorem State.OrderOk.injectRaise {s : State} (h : s.OrderOk) (hs : s.Inv) {v L : Nat} (hv : v < s.cfg.nvcpu)
    (hL : L < s.cfg.nlines) (hnone : (s.desc v L).linked = none) : (injectRaise v L s).OrderOk := by
  obtain ⟨-, hsized, hlinks, -⟩ := hs
  simp only [Machine.injectRaise]
  refine h.sublist rfl (fun w => ?_) (fun w hw x hx => ?_)
  · rw [State.emitAll_inflight, State.inflight_setDesc]
  · rw [State.emitAll_desc, State.desc_setDesc_of_sized hsized hv hL, if_neg]
    rintro ⟨rfl, hkey⟩
    exact hlinks.not_mem_of_unlinked hv hL hnone hw hkey hx

/-- Inject step 4 (R214) inserts the line in priority order. -/
theorem State.OrderOk.injectInsert {s : State} (h : s.OrderOk) (v L : Nat) : (Machine.injectInsert v L s).OrderOk := by
  have hprio : ∀ w x, ((Machine.injectInsert v L s).desc w x).prio = (s.desc w x).prio := by
    intro w x
    have hd : ((s.desc v L).linkTo v).prio = (s.desc v L).prio := rfl
    rw [Machine.injectInsert, State.setDesc_keeps Descriptor.prio (by rw [State.desc_setInflight, hd]),
      State.desc_setInflight]
  intro w hw
  simp only [hprio]
  rw [Machine.injectInsert, State.inflight_setDesc, State.inflight_setInflight]
  split
  next hwv => obtain ⟨rfl, -⟩ := hwv; exact insertByPrio_sorted (fun x => (s.desc v x).prio) _ L (h v hw)
  next => exact h w hw

theorem State.OrderOk.injectLink {s : State} (h : s.OrderOk) (hs : s.Inv) {v L : Nat} (hv : v < s.cfg.nvcpu)
    (hL : L < s.cfg.nlines) : (injectLink v L s).1.OrderOk := by
  rcases injectLink_cases v L s with ⟨u, -, e⟩ | ⟨-, -, e⟩ | ⟨hnone, -, e⟩ <;> rw [e]
  · exact (h.setDesc (d := (s.desc v L).retrigger) rfl).congr rfl rfl rfl
  · exact h
  · exact (h.injectRaise hs hv hL hnone).injectInsert v L

theorem State.OrderOk.enableStep {s : State} (h : s.OrderOk) (v L : Nat) : (enableStep v L s).1.OrderOk := by
  have hd : (s.setDesc v L (s.desc v L).enable).OrderOk := h.setDesc rfl
  simp only [Machine.enableStep]
  split <;> exact hd.congr rfl rfl rfl

theorem State.OrderOk.disableStep {s : State} (h : s.OrderOk) (v L : Nat) : (disableStep v L s).OrderOk := by
  have hp : (s.desc v L).disable.prio = (s.desc v L).prio := rfl
  simp only [Machine.disableStep]
  cases (s.desc v L).linked with
  | some u => exact ((h.eraseInflight u L).setDesc (hp.trans (by rw [State.desc_setInflight]))).congr rfl rfl rfl
  | none => exact (h.setDesc hp).congr rfl rfl rfl

theorem advance_orderOk {k : Nat} {s t : State} (hs : s.Inv) (ho : s.OrderOk) (h : advance k s = .next t) :
    t.OrderOk := by
  obtain ⟨-, ht⟩ := (s.inv_iff).1 hs
  obtain ⟨x, hx, rfl⟩ := advance_next h
  have hstep : (taskStep x s).1.OrderOk := by
    rcases taskStep_state_cases (ht.1 x (List.mem_of_getElem? hx)) with ⟨v, L, hv, hL, e⟩ | ⟨v, L, -, -, e⟩ |
      ⟨v, L, -, -, e⟩ | ⟨es, e⟩ <;> rw [e]
    · exact ho.injectLink hs ((s.hasVcpu_iff v).1 hv).1 hL
    · exact ho.enableStep v L
    · exact ho.disableStep v L
    · exact ho.congr rfl rfl rfl
  have e := ((taskStep x s).1.putTask_leaves k (taskStep x s).2).2
  refine hstep.congr ?_ ?_ ?_ <;> rw [e]

theorem exec_orderOk {i : Instr} {s t : State} (ho : s.OrderOk) (h : exec i s = .next t) : t.OrderOk :=
  ho.sublist (exec_phase_cfg h).2 (fun w => by rw [exec_inflight h]) fun w _ x _ => by rw [exec_desc h]

theorem portStep_orderOk {op : PortOp} {s t : State} (hs : s.Inv) (ho : s.OrderOk) (h : portStep op s = .next t) :
    t.OrderOk := by
  obtain ⟨⟨-, hsized, -, habs⟩, -⟩ := (s.inv_iff).1 hs
  have hlen : s.vcpu.length = s.cfg.nvcpu := by obtain ⟨-, -, hvcpu, -⟩ := hsized; exact hvcpu
  cases op with
  | inject v L cp =>
    obtain ⟨⟨-, -, hv, -, hL⟩, rfl⟩ := portInject_next h
    refine (ho.injectLink hs hv hL).congr ?_ ?_ ?_ <;> rw [State.begin_frame]
  | ciVisible u L b =>
    obtain ⟨-, -, rfl⟩ := portVisible_next h
    exact ho.setDesc rfl
  | ciActive u L b =>
    obtain ⟨-, -, rfl⟩ := portActive_next h
    exact ho.setDesc rfl
  | ciRetire u L =>
    obtain ⟨-, -, rfl⟩ := portRetire_next h
    have hp : (s.desc u L).retire.prio = (s.desc u L).prio := rfl
    exact (ho.eraseInflight u L).setDesc (hp.trans (by rw [State.desc_setInflight]))
  | createDomain c =>
    obtain ⟨-, -, rfl⟩ := portCreateDomain_next h
    intro v _
    change ((State.created c).inflight v).Pairwise _
    simp
  | createVcpu v =>
    obtain ⟨-, -, hv, hc, rfl⟩ := portCreateVcpu_next h
    obtain ⟨hd, hi⟩ := State.setVcpu_fresh_lines (hlen ▸ hv) (habs v hv hc)
    exact ho.sublist rfl (fun w => by rw [hi]) fun w _ x _ => by rw [hd]
  | destroyVcpu v =>
    obtain ⟨hv, -, rfl⟩ := portDestroyVcpu_teardown h
    have hv' : v < s.vcpu.length := hlen ▸ ((s.hasVcpu_iff v).1 hv).1
    intro w hw
    rw [State.teardown_inflight hv']
    split
    next => exact .nil
    next hwv =>
      refine (ho w hw).imp fun {x y} hxy => ?_
      have hprio : ∀ x, ((s.teardown v).desc w x).prio = (s.desc w x).prio := by
        intro x
        rw [State.teardown_desc hv', if_neg hwv]
        split
        · rfl
        · split <;> rfl
      rwa [hprio, hprio]
  | destroyDomain =>
    obtain ⟨-, -, rfl⟩ := portDestroyDomain_next h
    exact ho.congr rfl rfl rfl

/-- Settles O55: a line is inserted in priority order when it is linked, and while it is in a list nothing writes its
priority; every other step only takes lines off lists. -/
theorem stepKeepsOrder : Obligations.StepKeepsOrder := by
  intro s t hs ho h
  refine (step_keeps (P := fun s => s.Inv ∧ s.OrderOk) ?_ ?_ ?_ ?_ ?_ ⟨hs, ho⟩ h).2
  · exact fun s xs rs ⟨hs, ho⟩ => ⟨hs.withInputs xs rs, ho.congr rfl rfl rfl⟩
  · exact fun k s t ⟨hs, ho⟩ h => ⟨advance_inv hs h, advance_orderOk hs ho h⟩
  · exact fun bs i s t _ ⟨hs, ho⟩ h => ⟨exec_inv hs h, exec_orderOk ho h⟩
  · exact fun op s t ⟨hs, ho⟩ h => ⟨portStep_inv hs h, portStep_orderOk hs ho h⟩
  · intro m s t ⟨hs, ho⟩ h
    refine ⟨envStep_inv hs h, ?_⟩
    obtain ⟨-, -, rfl⟩ := envStep_next h
    exact ho.congr rfl rfl rfl

end Sys2Proof.Machine

/-! ## The registers -/

namespace Sys2Proof

/-! ### The writable target and config words (30_encoding.md R73, R74)

The read-only words, those of rank 0, have rows of their own, which come before the rows of the writable words. -/

/-- The rows with at least 8 mask bits, which come first. -/
def keyRowsFrom8 : List KeyRow := keyRows11 ++ keyRows10 ++ keyRows9 ++ keyRows8

/-- The instruction of an access is built by a row its key matches, unless it is a default one. -/
theorem decodeAccess_row {x : Access} {i : Instr} (h : decodeAccess x = i) (hr : ∀ o a, i ≠ .rdRsvd o a)
    (hw : ∀ o a, i ≠ .wrRsvd o a) : ∃ r, selectRow x.key = some r ∧ r.build x = i := by
  simp only [decodeAccess] at h
  split at h
  next r hs => exact ⟨r, hs, h⟩
  next =>
    split at h
    · exact absurd h.symm (hw _ _)
    · exact absurd h.symm (hr _ _)

/-- A key that selects a later row matches none of the rows before it. -/
theorem not_hits_of_selectRow {key : BitVec 13} {r r' : KeyRow} (h : selectRow key = some r) (hr' : r' ∈ keyRowsFrom8)
    (hr : r ∉ keyRowsFrom8) : r'.hits key = false := by
  have hsplit : keyRows = keyRowsFrom8 ++ (keyRows6 ++ keyRows5 ++ keyRows3 ++ keyRows1) := by
    simp only [keyRows, keyRowsFrom8, List.append_assoc]
  rw [selectRow, hsplit, List.find?_append] at h
  cases he : keyRowsFrom8.find? (fun r => r.hits key) with
  | none => simpa using List.find?_eq_none.1 he r' hr'
  | some r₀ =>
    rw [he, Option.some_or] at h
    exact absurd (Option.some.inj h ▸ List.mem_of_find?_eq_some he) hr

theorem decodeSgir_ne_wrItargetsr (x : Access) (n : BitVec 8) (a : WriteArgs) : decodeSgir x ≠ .wrItargetsr n a := by
  simp only [decodeSgir]; repeat' split
  all_goals exact Instr.noConfusion

theorem decodeSgir_ne_wrIcfgr (x : Access) (n : BitVec 6) (a : WriteArgs) : decodeSgir x ≠ .wrIcfgr n a := by
  simp only [decodeSgir]; repeat' split
  all_goals exact Instr.noConfusion

/-- None of the first rows builds a WR.ITARGETSR or a WR.ICFGR. -/
theorem keyRowsFrom8_build {r : KeyRow} (hr : r ∈ keyRowsFrom8) (x : Access) :
    (∀ n a, r.build x ≠ .wrItargetsr n a) ∧ ∀ n a, r.build x ≠ .wrIcfgr n a := by
  revert r
  simp [keyRowsFrom8, keyRows11, keyRows10, keyRows9, keyRows8, decodeSgir_ne_wrItargetsr, decodeSgir_ne_wrIcfgr]

/-- The one row that builds a WR.ITARGETSR, and the one that builds a WR.ICFGR. -/
theorem keyRows_build {r : KeyRow} (hr : r ∈ keyRows) (x : Access) :
    (∀ n a, r.build x = .wrItargetsr n a → r.mask = 0x1C00#13 ∧ r.pattern = 0x1800#13 ∧ n = x.index 8) ∧
    ∀ n a, r.build x = .wrIcfgr n a → r.mask = 0x1F00#13 ∧ r.pattern = 0x1C00#13 ∧ n = x.index 6 := by
  revert r
  simp [keyRows, keyRows11, keyRows10, keyRows9, keyRows8, keyRows6, keyRows5, keyRows3, keyRows1,
    decodeSgir_ne_wrItargetsr, decodeSgir_ne_wrIcfgr, eq_comm]

theorem Access.key_getLsbD (x : Access) {i : Nat} (hi : i < 12) : x.key.getLsbD i = x.off.getLsbD i := by
  simp only [Access.key]
  rw [BitVec.getLsbD_append, if_pos hi]

/-- A word index below `2 ^ j` has the key bits above it clear. -/
theorem Access.key_and_eq_zero_of_index_lt {x : Access} {k j : Nat} {e : BitVec 13} (h : (x.index k).toNat < 2 ^ j)
    (hk : k ≤ 10) (he : ∀ i < 13, e.getLsbD i = true → j + 2 ≤ i ∧ i < k + 2) : x.key &&& e = 0#13 := by
  refine BitVec.eq_of_getLsbD_eq fun i hi => ?_
  rw [BitVec.getLsbD_and, BitVec.getLsbD_zero]
  cases hei : e.getLsbD i with
  | false => exact Bool.and_false _
  | true =>
    obtain ⟨hji, hik⟩ := he i hi hei
    have hbit : (x.index k).getLsbD (i - 2) = false :=
      Nat.testBit_lt_two_pow (h.trans_le (Nat.pow_le_pow_right (by omega) (by omega)))
    rw [Access.index, BitVec.getLsbD_extractLsb', show 2 + (i - 2) = i by omega,
      decide_eq_true (show i - 2 < k by omega), Bool.true_and] at hbit
    rw [x.key_getLsbD (by omega), hbit, Bool.false_and]

/-- The read-only row of a word index below `2 ^ j` differs from the writable one in the key bits above the index: the
key of a small index matches it. -/
theorem KeyRow.hits_of_index_lt {x : Access} {r r' : KeyRow} {k j : Nat} {e : BitVec 13} (h : r.hits x.key = true)
    (hmask : r'.mask = r.mask ||| e) (hpat : r'.pattern = r.pattern) (hlt : (x.index k).toNat < 2 ^ j) (hk : k ≤ 10)
    (he : ∀ i < 13, e.getLsbD i = true → j + 2 ≤ i ∧ i < k + 2) : r'.hits x.key = true := by
  simp only [KeyRow.hits, beq_iff_eq] at h ⊢
  have hor : ∀ a b c : BitVec 13, a &&& (b ||| c) = a &&& b ||| a &&& c := by
    intro a b c; ext i; simp [Bool.and_or_distrib_left]
  rw [hmask, hpat, hor, h, Access.key_and_eq_zero_of_index_lt hlt hk he, BitVec.or_zero]

/-- The writable ITARGETSR words start at 8 (R74). -/
theorem wrItargetsr_of_decodeAccess {x : Access} {n : BitVec 8} {a : WriteArgs}
    (h : decodeAccess x = .wrItargetsr n a) : 8 ≤ n.toNat := by
  obtain ⟨r, hsel, hb⟩ := decodeAccess_row h (by simp) (by simp)
  have hhit : r.hits x.key = true := List.find?_some (p := fun r : KeyRow => r.hits x.key) hsel
  obtain ⟨hmask, hpat, rfl⟩ := (keyRows_build (List.mem_of_find?_eq_some hsel) x).1 n a hb
  by_contra hlt
  have hro := not_hits_of_selectRow (r' := ⟨0x1FE0#13, 0x1800#13, fun x => .wrItargetsrRo (x.index 3) x.writeArgs⟩)
    hsel (by simp [keyRowsFrom8, keyRows8]) (fun hr => (keyRowsFrom8_build hr x).1 _ _ hb)
  rw [KeyRow.hits_of_index_lt (j := 3) (e := 0x03E0#13) hhit (by rw [hmask]; rfl) hpat.symm
    (Nat.lt_of_not_le hlt) (by omega) (by decide)] at hro
  cases hro

/-- The writable ICFGR words start at 2 (R74). -/
theorem wrIcfgr_of_decodeAccess {x : Access} {n : BitVec 6} {a : WriteArgs}
    (h : decodeAccess x = .wrIcfgr n a) : 2 ≤ n.toNat := by
  obtain ⟨r, hsel, hb⟩ := decodeAccess_row h (by simp) (by simp)
  have hhit : r.hits x.key = true := List.find?_some (p := fun r : KeyRow => r.hits x.key) hsel
  obtain ⟨hmask, hpat, rfl⟩ := (keyRows_build (List.mem_of_find?_eq_some hsel) x).2 n a hb
  by_contra hlt
  have hro := not_hits_of_selectRow (r' := ⟨0x1FF8#13, 0x1C00#13, fun x => .wrIcfgrRo (x.index 1) x.writeArgs⟩)
    hsel (by simp [keyRowsFrom8, keyRows10]) (fun hr => (keyRowsFrom8_build hr x).2 _ _ hb)
  rw [KeyRow.hits_of_index_lt (j := 1) (e := 0x00F8#13) hhit (by rw [hmask]; rfl) hpat.symm
    (Nat.lt_of_not_le hlt) (by omega) (by decide)] at hro
  cases hro

theorem decode_ok {bs : List Byte} {i : Instr} (h : decode bs = .ok i) : ∃ x, decodeAccess x = i := by
  simp only [decode] at h
  split at h
  next x _ => exact ⟨x, Except.ok.inj h⟩
  next => cases h

end Sys2Proof

namespace Sys2Proof.Machine

/-! ### The register invariants (10_state.md R23, R38, R39) -/

/-- A word has no bit outside a mask. -/
theorem and_not_eq_zero_iff (x m : Word) :
    x &&& ~~~m = 0#32 ↔ ∀ i < 32, x.getLsbD i = true → m.getLsbD i = true := by
  constructor
  · intro h i hi hx
    have hbit := congrArg (fun y : Word => y.getLsbD i) h
    simpa [hx, hi] using hbit
  · intro h
    refine BitVec.eq_of_getLsbD_eq fun i hi => ?_
    have := h i hi
    cases hx : x.getLsbD i <;> simp_all

/-- What is written under the mask of valid lines has no bit of an invalid line (40_rank_store.md R104). -/
theorem or_and_not_eq_zero {x m : Word} (h : x &&& ~~~m = 0#32) (y : Word) : (x ||| (y &&& m)) &&& ~~~m = 0#32 := by
  rw [and_not_eq_zero_iff] at h ⊢
  intro i hi hx
  simp only [BitVec.getLsbD_or, BitVec.getLsbD_and, Bool.or_eq_true, Bool.and_eq_true] at hx
  rcases hx with hx | hx
  · exact h i hi hx
  · exact hx.2

theorem and_and_not_eq_zero {x m : Word} (h : x &&& ~~~m = 0#32) (y : Word) : (x &&& y) &&& ~~~m = 0#32 := by
  rw [and_not_eq_zero_iff] at h ⊢
  intro i hi hx
  simp only [BitVec.getLsbD_and, Bool.and_eq_true] at hx
  exact h i hi hx.1

/-- A write of priority or target bytes stores nothing for an invalid line (R163, R166). -/
theorem storeBytes_invalid {c : Config} {r i : Nat} (n : Nat) (a : Vector Byte 32) (x : WriteArgs) (hi : i < 32)
    (hv : (validMask c r).getLsbD i = false) : (storeBytes c r (n % 8) a x).getD i 0#8 = a.getD i 0#8 := by
  rw [validMask_getLsbD c r i hi, decide_eq_false_iff_not] at hv
  rw [storeBytes_getD c r _ a x (Nat.mod_lt _ (by decide)), if_neg (fun h => hv h.2.1)]

/-- A write of a config word stores nothing for an invalid line (R169). -/
theorem storeConfig_invalid {c : Config} {r u : Nat} (n : Nat) {a : Vector Word 2} (val : Word) (hu : u < 2)
    (h : a.getD u 0#32 &&& ~~~(mask2 c r u) = 0#32) :
    (storeConfig c r (n % 2) a val).getD u 0#32 &&& ~~~(mask2 c r u) = 0#32 := by
  rw [and_not_eq_zero_iff] at h ⊢
  intro i hi hx
  rw [storeConfig_getLsbD c r _ a val (Nat.mod_lt _ (by decide)) u i hu hi] at hx
  split at hx
  next hv =>
    obtain ⟨rfl, hv⟩ := hv
    rw [mask2_getLsbD c r _ i hu hi]
    exact decide_eq_true hv
  next => exact h i hi hx

/-- What a register write has to leave of rank `r` of vCPU `v`, `R` before and `R'` after it. -/
structure RankKept (c : Config) (r : Nat) (R R' : Rank) : Prop where
  quiet : R.QuietOk → R'.QuietOk
  invalid : R.InvalidOk c r → R'.InvalidOk c r
  priv : r = 0 → R'.config = R.config ∧ R'.target = R.target

/-- The rank phase of a decoded access leaves the quiet fields, the fields of invalid lines, and the target and config
fields of rank 0, as the register invariants want them. -/
theorem rankPhase_kept {x : Access} {i : Instr} (hd : decodeAccess x = i) (s : State) :
    rankPhase i s = s ∨ ∃ r R, rankPhase i s = s.setRank i.accessor.toNat r R ∧
      RankKept s.cfg r (s.rankAt i.accessor.toNat r) R := by
  cases i
  case wrIsenabler n a =>
    refine .inr ⟨_, _, rfl, ⟨id, ?_, fun _ => ⟨rfl, rfl⟩⟩⟩
    rintro ⟨he, hb, hc⟩
    exact ⟨or_and_not_eq_zero he _, hb, hc⟩
  case wrIcenabler n a =>
    refine .inr ⟨_, _, rfl, ⟨id, ?_, fun _ => ⟨rfl, rfl⟩⟩⟩
    rintro ⟨he, hb, hc⟩
    exact ⟨and_and_not_eq_zero he _, hb, hc⟩
  case wrIcactiver n a =>
    refine .inr ⟨_, _, rfl, ⟨?_, id, fun _ => ⟨rfl, rfl⟩⟩⟩
    rintro ⟨hp, ha, hs⟩
    refine ⟨hp, ?_, hs⟩
    change (s.rankAt _ _).active &&& _ = _
    rw [Instr.accessor] at ha
    rw [ha, BitVec.zero_and]
  case wrIpriorityr n a =>
    refine .inr ⟨_, _, rfl, ⟨id, ?_, fun _ => ⟨rfl, rfl⟩⟩⟩
    rintro ⟨he, hb, hc⟩
    refine ⟨he, fun i hi hv => ?_, hc⟩
    obtain ⟨hp, ht⟩ := hb i hi hv
    exact ⟨(storeBytes_invalid _ _ _ hi hv).trans hp, ht⟩
  case wrItargetsr n a =>
    have hn := wrItargetsr_of_decodeAccess hd
    refine .inr ⟨_, _, rfl, ⟨id, ?_, fun h0 => by omega⟩⟩
    rintro ⟨he, hb, hc⟩
    refine ⟨he, fun i hi hv => ?_, hc⟩
    obtain ⟨hp, ht⟩ := hb i hi hv
    exact ⟨hp, (storeBytes_invalid _ _ _ hi hv).trans ht⟩
  case wrIcfgr n a =>
    have hn := wrIcfgr_of_decodeAccess hd
    refine .inr ⟨_, _, rfl, ⟨id, ?_, fun h0 => by omega⟩⟩
    rintro ⟨he, hb, hc⟩
    exact ⟨he, hb, fun w hw => storeConfig_invalid _ _ hw (hc w hw)⟩
  all_goals exact .inl rfl

/-- The register invariants read the parameters, the ranks and which vCPUs exist only. -/
theorem State.RegistersOk.congr {s t : State} (h : s.RegistersOk) (hcfg : t.cfg = s.cfg)
    (hr : ∀ v r, t.rankAt v r = s.rankAt v r) (hc : ∀ v, (t.vcpuAt v).created = (s.vcpuAt v).created) :
    t.RegistersOk := by
  simpa only [State.RegistersOk, hcfg, hr, hc] using h

theorem Rank.zero_quietOk : Rank.zero.QuietOk := ⟨rfl, rfl, rfl⟩

theorem Rank.zero_invalidOk (c : Config) (r : Nat) : Rank.zero.InvalidOk c r := by
  refine ⟨BitVec.zero_and, fun i hi _ => ?_, fun w hw => ?_⟩
  · simp [Rank.zero, Vector.getD, hi]
  · simp [Rank.zero, Vector.getD, hw]

theorem State.created_registersOk (c : Config) : (State.created c).RegistersOk := by
  refine ⟨fun r _ => ?_, fun v _ => ?_⟩
  · rw [State.created_rankAt]
    exact ⟨Rank.zero_quietOk, Rank.zero_invalidOk _ _⟩
  · rw [State.created_rankAt, State.created_vcpuAt]
    exact ⟨Rank.zero_quietOk, rfl, fun h => absurd h Bool.false_ne_true⟩

/-- A shared rank is the same whoever names it (10_state.md R22). -/
theorem State.rankAt_shared (s : State) (u v r : Nat) : s.rankAt u (r + 1) = s.rankAt v (r + 1) := by
  simp [State.rankAt]

/-- A write of one rank that leaves what the invariants speak of. -/
theorem State.RegistersOk.setRank {s : State} (h : s.RegistersOk) {v r : Nat} {R : Rank}
    (hk : RankKept s.cfg r (s.rankAt v r) R) : (s.setRank v r R).RegistersOk := by
  obtain ⟨hshared, hpriv⟩ := h
  refine ⟨fun q hq => ?_, fun u hu => ?_⟩
  · obtain ⟨hquiet, hinv⟩ := hshared q hq
    rw [State.rankAt_setRank]
    split
    next hc =>
      obtain ⟨rfl, -⟩ := hc
      rw [s.rankAt_shared 0 v] at hquiet hinv
      exact ⟨hk.quiet hquiet, hk.invalid hinv⟩
    next => exact ⟨hquiet, hinv⟩
  · obtain ⟨hquiet, hconfig, htarget⟩ := hpriv u hu
    rw [State.rankAt_setRank, State.created_setRank]
    split
    next hc =>
      obtain ⟨rfl, hc⟩ := hc
      obtain ⟨-, rfl, -⟩ : (0 = 0 ∧ v = u ∧ _) := by simpa using hc
      obtain ⟨hc, ht⟩ := hk.priv rfl
      exact ⟨hk.quiet hquiet, hc.trans hconfig, fun h => ht.trans (htarget h)⟩
    next => exact ⟨hquiet, hconfig, htarget⟩

theorem exec_registersOk {bs : List Byte} {i : Instr} {s t : State} (hd : decode bs = .ok i) (hr : s.RegistersOk)
    (h : exec i s = .next t) : t.RegistersOk := by
  obtain ⟨x, hx⟩ := decode_ok hd
  obtain ⟨-, ⟨-, rfl⟩ | ⟨-, -, rfl⟩ | ⟨-, -, rfl⟩⟩ := exec_next h
  · exact hr
  · exact hr
  · have hphase : (rankPhase i s).RegistersOk := by
      rcases rankPhase_kept hx s with e | ⟨r, R, e, hk⟩ <;> rw [e]
      · exact hr
      · exact hr.setRank hk
    rw [performed_frame]
    exact hphase.congr rfl (fun _ _ => rfl) fun _ => rfl

/-- A new record for one vCPU, with the rank the invariants want. -/
theorem State.RegistersOk.setVcpu {s : State} (h : s.RegistersOk) {v : Nat} {x : VcpuState} (hv : v < s.vcpu.length)
    (hquiet : x.prank.QuietOk) (hconfig : x.prank.config = Vector.replicate 2 0#32)
    (htarget : x.created = true → x.prank.target = Vector.replicate 32 (1#8 <<< v)) :
    (s.setVcpu v x).RegistersOk := by
  obtain ⟨hshared, hpriv⟩ := h
  refine ⟨fun q hq => ?_, fun u hu => ?_⟩
  · rw [State.rankAt_setVcpu v x hv, if_neg (fun h => Nat.succ_ne_zero q h.1)]
    exact hshared q hq
  · rw [State.rankAt_setVcpu v x hv, State.vcpuAt_setVcpu]
    by_cases hu : u = v
    · subst hu
      rw [if_pos ⟨rfl, rfl⟩, if_pos ⟨rfl, hv⟩]
      exact ⟨hquiet, hconfig, htarget⟩
    · rw [if_neg (fun h => hu h.2), if_neg (fun h => hu h.1.symm)]
      exact hpriv u ‹_›

theorem portStep_registersOk {op : PortOp} {s t : State} (hs : s.Inv) (hr : s.RegistersOk)
    (h : portStep op s = .next t) : t.RegistersOk := by
  obtain ⟨-, ⟨-, -, hlen, -⟩, -⟩ := hs
  cases op with
  | inject v L cp =>
    obtain ⟨-, rfl⟩ := portInject_next h
    have hi : (injectLink v L s).1.RegistersOk :=
      hr.congr (by rw [injectLink_frame]) (injectLink_sameRanks v L s).2 (injectLink_sameRanks v L s).1
    rw [State.begin_frame]
    exact hi.congr rfl (fun _ _ => rfl) fun _ => rfl
  | ciVisible u L b =>
    obtain ⟨-, -, rfl⟩ := portVisible_next h
    exact hr.congr rfl (by simp) (by simp)
  | ciActive u L b =>
    obtain ⟨-, -, rfl⟩ := portActive_next h
    exact hr.congr rfl (by simp) (by simp)
  | ciRetire u L =>
    obtain ⟨-, -, rfl⟩ := portRetire_next h
    exact hr.congr rfl (by simp) (by simp)
  | createDomain c =>
    obtain ⟨-, -, rfl⟩ := portCreateDomain_next h
    exact (State.created_registersOk c).congr rfl (fun _ _ => rfl) fun _ => rfl
  | createVcpu v =>
    obtain ⟨-, -, hv, -, rfl⟩ := portCreateVcpu_next h
    exact hr.setVcpu (hlen ▸ hv) ⟨rfl, rfl, rfl⟩ rfl fun _ => rfl
  | destroyVcpu v =>
    obtain ⟨hv, -, rfl⟩ := portDestroyVcpu_teardown h
    have hspi : State.RegistersOk { s with spi := releaseShared s.spi (s.inflight v) } :=
      hr.congr rfl (fun _ _ => rfl) fun _ => rfl
    exact hspi.setVcpu (hlen ▸ ((s.hasVcpu_iff v).1 hv).1) Rank.zero_quietOk rfl
      fun h => absurd h Bool.false_ne_true
  | destroyDomain =>
    obtain ⟨-, -, rfl⟩ := portDestroyDomain_next h
    exact hr.congr rfl (fun _ _ => rfl) fun _ => rfl

/-- Settles O56: only the rank phase of a decoded access and the life cycle of a vCPU write ranks, the first under the
masks of valid lines and never in the read-only words of rank 0. -/
theorem stepKeepsRegisters : Obligations.StepKeepsRegisters := by
  intro s t hs hr h
  refine (step_keeps (P := fun s => s.Inv ∧ s.RegistersOk) ?_ ?_ ?_ ?_ ?_ ⟨hs, hr⟩ h).2
  · exact fun s xs rs ⟨hs, hr⟩ => ⟨hs.withInputs xs rs, hr.congr rfl (fun _ _ => rfl) fun _ => rfl⟩
  · intro k s t ⟨hs, hr⟩ h
    obtain ⟨hcreated, hranks⟩ := advance_sameRanks h
    exact ⟨advance_inv hs h, hr.congr (by rw [advance_frame h]) hranks hcreated⟩
  · exact fun bs i s t hd ⟨hs, hr⟩ h => ⟨exec_inv hs h, exec_registersOk hd hr h⟩
  · exact fun op s t ⟨hs, hr⟩ h => ⟨portStep_inv hs h, portStep_registersOk hs hr h⟩
  · intro m s t ⟨hs, hr⟩ h
    refine ⟨envStep_inv hs h, ?_⟩
    obtain ⟨-, -, rfl⟩ := envStep_next h
    exact hr.congr rfl (fun _ _ => rfl) fun _ => rfl

end Sys2Proof.Machine

/-! ## Which bits the collaborator owns -/

namespace Sys2Proof.Machine

/-! ### The bits the collaborator owns (10_state.md R25, R40) -/

/-- A descriptor bit that every rule but those of the collaborator keeps or clears. -/
structure CollaboratorBit (f : Descriptor → Bool) : Prop where
  zero : f Descriptor.zero = false
  enable : ∀ d : Descriptor, f d.enable = f d
  disable : ∀ d : Descriptor, f d.disable = f d
  retrigger : ∀ d : Descriptor, f d.retrigger = f d
  snapshot : ∀ (d : Descriptor) p, f (d.snapshot p) = false
  linkTo : ∀ (d : Descriptor) v, f (d.linkTo v) = f d
  retire : ∀ d : Descriptor, f d.retire = false
  release : ∀ d : Descriptor, f d.release = false

theorem collaboratorBit_visible : CollaboratorBit Descriptor.visible :=
  ⟨rfl, fun _ => rfl, fun _ => rfl, fun _ => rfl, fun _ _ => rfl, fun _ _ => rfl, fun _ => rfl, fun _ => rfl⟩

theorem collaboratorBit_active : CollaboratorBit Descriptor.active :=
  ⟨rfl, fun _ => rfl, fun _ => rfl, fun _ => rfl, fun _ _ => rfl, fun _ _ => rfl, fun _ => rfl, fun _ => rfl⟩

/-- `t` has the bit set in no descriptor where `s` has it clear. -/
def State.SetsNo (f : Descriptor → Bool) (s t : State) : Prop :=
  ∀ v L, f (t.desc v L) = true → f (s.desc v L) = true

section

variable {f : Descriptor → Bool} {s t u : State}

theorem State.SetsNo.of_desc_eq (h : ∀ v L, t.desc v L = s.desc v L) : s.SetsNo f t :=
  fun v L hf => h v L ▸ hf

theorem State.SetsNo.trans (h : s.SetsNo f t) (h' : t.SetsNo f u) : s.SetsNo f u :=
  fun v L hf => h v L (h' v L hf)

theorem State.SetsNo.setDesc {v L : Nat} {d : Descriptor} (h : f d = true → f (s.desc v L) = true) :
    s.SetsNo f (s.setDesc v L d) := by
  intro w M hf
  rw [State.desc_setDesc] at hf
  split at hf
  next hc =>
    obtain ⟨rfl, hc⟩ := hc
    rw [s.desc_eq_of_key (u := w) (v := v) (by omega)]
    exact h hf
  next => exact hf

/-- The same beside a write of a list. -/
theorem State.SetsNo.setInflight_setDesc {v L w : Nat} {l : List Nat} {d : Descriptor}
    (h : f d = true → f (s.desc v L) = true) : s.SetsNo f ((s.setInflight w l).setDesc v L d) :=
  (State.SetsNo.of_desc_eq (s := s) fun v L => s.desc_setInflight w v L l).trans
    (State.SetsNo.setDesc (by rwa [State.desc_setInflight]))

theorem injectLink_setsNo (hf : CollaboratorBit f) (v L : Nat) (s : State) : s.SetsNo f (injectLink v L s).1 := by
  rcases injectLink_cases v L s with ⟨_, -, e⟩ | ⟨-, -, e⟩ | ⟨-, -, e⟩ <;> rw [e]
  · exact State.SetsNo.setDesc (s := s) fun h => (hf.retrigger _).symm.trans h
  · exact fun _ _ h => h
  · have hraise : s.SetsNo f (injectRaise v L s) :=
      State.SetsNo.setDesc (s := s) fun h => absurd ((hf.snapshot _ _).symm.trans h) Bool.false_ne_true
    exact hraise.trans (State.SetsNo.setInflight_setDesc fun h => (hf.linkTo _ _).symm.trans h)

theorem enableStep_setsNo (hf : CollaboratorBit f) (v L : Nat) (s : State) : s.SetsNo f (enableStep v L s).1 := by
  have h : s.SetsNo f (s.setDesc v L (s.desc v L).enable) :=
    State.SetsNo.setDesc fun h => (hf.enable _).symm.trans h
  simp only [enableStep]
  split <;> exact h

theorem disableStep_setsNo (hf : CollaboratorBit f) (v L : Nat) (s : State) : s.SetsNo f (disableStep v L s) := by
  have hd : f (s.desc v L).disable = true → f (s.desc v L) = true := fun h => (hf.disable _).symm.trans h
  simp only [disableStep]
  cases (s.desc v L).linked with
  | some u => exact (State.SetsNo.setInflight_setDesc hd : s.SetsNo f _)
  | none => exact (State.SetsNo.setDesc hd : s.SetsNo f _)

theorem taskStep_setsNo (hf : CollaboratorBit f) (x : Task) (s : State) : s.SetsNo f (taskStep x s).1 := by
  rcases taskStep_cases x s with ⟨v, L, -, e⟩ | ⟨_, -, e⟩ | ⟨-, ⟨v, m, n, i, -, -, e⟩ | ⟨v, m, n, i, -, -, e⟩ |
    ⟨_, _, _, -, -, -, e⟩ | ⟨_, _, _, -, -, -, e⟩ | ⟨-, e⟩⟩ <;> rw [e]
  · exact injectLink_setsNo hf v L s
  · exact State.SetsNo.of_desc_eq fun _ _ => rfl
  · exact enableStep_setsNo hf v _ s
  · exact disableStep_setsNo hf v _ s
  all_goals exact State.SetsNo.of_desc_eq fun _ _ => rfl

theorem advance_setsNo (hf : CollaboratorBit f) {k : Nat} (h : advance k s = .next t) : s.SetsNo f t := by
  obtain ⟨x, -, rfl⟩ := advance_next h
  rw [((taskStep x s).1.putTask_leaves k (taskStep x s).2).2]
  exact taskStep_setsNo hf x s

theorem State.SetsNo.of_zero (hf : CollaboratorBit f)
    (h : ∀ v L, t.desc v L = s.desc v L ∨ t.desc v L = Descriptor.zero ∨ t.desc v L = (s.desc v L).release) :
    s.SetsNo f t := by
  intro v L ht
  rcases h v L with e | e | e <;> rw [e] at ht
  · exact ht
  · exact absurd (hf.zero.symm.trans ht) Bool.false_ne_true
  · exact absurd ((hf.release _).symm.trans ht) Bool.false_ne_true

/-- A vCPU record with zero descriptors sets no bit. -/
theorem State.SetsNo.setVcpu (hf : CollaboratorBit f) (v : Nat) {x : VcpuState}
    (hx : ∀ L, x.pdesc.getD L Descriptor.zero = Descriptor.zero) : s.SetsNo f (s.setVcpu v x) := by
  by_cases hv : v < s.vcpu.length
  · refine .of_zero hf fun w L => ?_
    rw [State.desc_setVcpu v x hv, hx]
    split
    · exact .inr (.inl rfl)
    · exact .inl rfl
  · have : s.setVcpu v x = s := by
      rw [State.setVcpu, List.set_eq_of_length_le (by omega)]
    rw [this]
    exact fun _ _ h => h

/-- No port operation sets the bit, but the collaborator's own two on the line they name. -/
theorem portStep_setsNo (hf : CollaboratorBit f) {op : PortOp} (h : portStep op s = .next t) :
    s.SetsNo f t ∨ (∃ u L b, op = .ciVisible u L b ∧ t = s.setDesc u L ((s.desc u L).setVisible b)) ∨
    ∃ u L b, op = .ciActive u L b ∧ t = s.setDesc u L ((s.desc u L).setActive b) := by
  cases op with
  | inject v L cp =>
    obtain ⟨-, rfl⟩ := portInject_next h
    refine .inl ?_
    rw [State.begin_frame]
    exact injectLink_setsNo hf v L s
  | ciVisible u L b => exact .inr (.inl ⟨u, L, b, rfl, (portVisible_next h).2.2⟩)
  | ciActive u L b => exact .inr (.inr ⟨u, L, b, rfl, (portActive_next h).2.2⟩)
  | ciRetire u L =>
    obtain ⟨-, -, rfl⟩ := portRetire_next h
    exact .inl (.setInflight_setDesc fun h => absurd ((hf.retire _).symm.trans h) Bool.false_ne_true)
  | createDomain c =>
    obtain ⟨-, -, rfl⟩ := portCreateDomain_next h
    exact .inl (.of_zero hf fun v L => .inr (.inl (State.created_desc c v L)))
  | createVcpu v =>
    obtain ⟨-, -, -, -, rfl⟩ := portCreateVcpu_next h
    exact .inl (.setVcpu hf v VcpuState.absent_pdesc_getD)
  | destroyVcpu v =>
    obtain ⟨-, -, rfl⟩ := portDestroyVcpu_teardown h
    have hrelease : s.SetsNo f { s with spi := releaseShared s.spi (s.inflight v) } := by
      refine .of_zero hf fun w L => ?_
      simp only [State.desc, State.vcpuAt, releaseShared_getD]
      split
      · exact .inl rfl
      · split
        · exact .inr (.inr rfl)
        · exact .inl rfl
    exact .inl (hrelease.trans (.setVcpu hf v VcpuState.absent_pdesc_getD))
  | destroyDomain =>
    obtain ⟨-, -, rfl⟩ := portDestroyDomain_next h
    exact .inl fun _ _ h => h

/-- No step sets the bit, but one that serves a call of the collaborator. -/
theorem step_setsNo (hf : CollaboratorBit f) (h : step s = .next t) :
    s.SetsNo f t ∨
    (∃ u L b rest, s.inputs = .port (.ciVisible u L b) :: rest ∧
      ∀ w M, t.desc w M = (s.setDesc u L ((s.desc u L).setVisible b)).desc w M) ∨
    ∃ u L b rest, s.inputs = .port (.ciActive u L b) :: rest ∧
      ∀ w M, t.desc w M = (s.setDesc u L ((s.desc u L).setActive b)).desc w M := by
  rcases step_next h with rfl | rfl | ⟨c, rfl⟩ | ⟨k, h | h⟩ | ⟨bs, _, i, -, -, h⟩ | ⟨op, rest, hin, h⟩ | ⟨m, _, -, h⟩
  · exact .inl fun _ _ h => h
  · exact .inl fun _ _ h => h
  · exact .inl fun _ _ h => h
  · exact .inl (advance_setsNo hf h)
  · exact .inl fun v L => advance_setsNo hf h v L
  · exact .inl (.of_desc_eq fun v L => exec_desc h v L)
  · rcases portStep_setsNo hf h with h | ⟨u, L, b, rfl, rfl⟩ | ⟨u, L, b, rfl, rfl⟩
    · exact .inl h
    · exact .inr (.inl ⟨u, L, b, rest, hin, fun _ _ => rfl⟩)
    · exact .inr (.inr ⟨u, L, b, rest, hin, fun _ _ => rfl⟩)
  · obtain ⟨-, -, rfl⟩ := envStep_next h
    exact .inl fun _ _ h => h

/-- A descriptor write that sets a bit somewhere writes that line, with the bit set. -/
theorem State.setDesc_sets {v L w M : Nat} {d : Descriptor} (h0 : f (s.desc w M) = false)
    (h1 : f ((s.setDesc v L d).desc w M) = true) : L = M ∧ f d = true := by
  rw [State.desc_setDesc] at h1
  split at h1
  next hc => exact ⟨hc.1, h1⟩
  next => simp [h0] at h1

end

/-- Settles O51: every other rule keeps or clears the two bits, and each call writes its own bit of its own line. -/
theorem collaboratorOwnsVisibleAndActive : Obligations.CollaboratorOwnsVisibleAndActive := by
  intro s t v L h
  constructor
  · intro h0 h1
    rcases step_setsNo collaboratorBit_visible h with hno | ⟨u, M, b, rest, hin, e⟩ | ⟨u, M, b, rest, -, e⟩
    · simp [hno v L h1] at h0
    · obtain ⟨rfl, hb⟩ := State.setDesc_sets h0 (e v L ▸ h1)
      obtain rfl : b = true := hb
      exact ⟨u, rest, hin⟩
    · have hkeep : ((s.desc u M).setActive b).visible = (s.desc u M).visible := rfl
      rw [e, State.setDesc_keeps Descriptor.visible hkeep, h0] at h1
      cases h1
  · intro h0 h1
    rcases step_setsNo collaboratorBit_active h with hno | ⟨u, M, b, rest, -, e⟩ | ⟨u, M, b, rest, hin, e⟩
    · simp [hno v L h1] at h0
    · have hkeep : ((s.desc u M).setVisible b).active = (s.desc u M).active := rfl
      rw [e, State.setDesc_keeps Descriptor.active hkeep, h0] at h1
      cases h1
    · obtain ⟨rfl, hb⟩ := State.setDesc_sets h0 (e v L ▸ h1)
      obtain rfl : b = true := hb
      exact ⟨u, rest, hin⟩

end Sys2Proof.Machine

/-! ## A new domain meets the invariants -/

namespace Sys2Proof.Machine

/-- Settles O53: every record of a new domain is zero and every list empty. -/
theorem createdDomainMeetsInvariants : Obligations.CreatedDomainMeetsInvariants := by
  have hcreated : ∀ c : Config, c.valid = true →
      (State.created c).Inv ∧ (State.created c).OrderOk ∧ (State.created c).RegistersOk :=
    fun c hc => ⟨State.created_inv hc, State.created_orderOk c, State.created_registersOk c⟩
  exact ⟨hcreated, hcreated Config.cfg0 (by decide)⟩

end Sys2Proof.Machine

/-! ## The controller enable bit -/

namespace Sys2Proof.Machine

/-! ### The controller enable bit (10_state.md R31)

Every operation but an access of CTLR and the creation of a domain commutes with setting the bit. -/

/-- The state with the controller enable bit set to `c`. -/
def State.withCtlr (s : State) (c : BitVec 1) : State := { s with ctlr := c }

/-- Apply a change of state to the state an answer carries. -/
def mapNext (f : State → State) : Result → Result
  | .next t => .next (f t)
  | .fault e => .fault e
  | .refused e => .refused e

section

variable (c : BitVec 1)

theorem State.withCtlr_self (s : State) : s.withCtlr s.ctlr = s := rfl

theorem State.complete_withCtlr (s : State) (x : Task) : (s.withCtlr c).complete x = (s.complete x).withCtlr c := by
  rw [State.complete_eq, State.complete_eq]
  rfl

theorem State.begin_withCtlr (s : State) (x : Task) : (s.withCtlr c).begin x = (s.begin x).withCtlr c := by
  simp only [State.begin]
  split
  · exact s.complete_withCtlr c x
  · rfl

theorem State.putTask_withCtlr (s : State) (k : Nat) (x : Task) :
    (s.withCtlr c).putTask k x = (s.putTask k x).withCtlr c := by
  simp only [State.putTask]
  split
  · exact State.complete_withCtlr c { s with tasks := s.tasks.eraseIdx k } x
  · rfl

/-- No instruction of another group reads or writes the bit. -/
theorem performed_withCtlr {i : Instr} (hi : i.group ≠ .ctlr) (s : State) :
    performed i (s.withCtlr c) = (performed i s).withCtlr c := by
  cases i
  case rdCtlr => exact absurd rfl hi
  case wrCtlr => exact absurd rfl hi
  case wrIsenabler n a => exact State.begin_withCtlr c (setEnable s a.v.toNat n.toNat a.val) _
  case wrIcenabler n a => exact State.begin_withCtlr c (clearEnable s a.v.toNat n.toNat a.val) _
  case wrSgirList => exact State.begin_withCtlr c s _
  case wrSgirOthers => exact State.begin_withCtlr c s _
  case wrSgirSelf => exact State.begin_withCtlr c s _
  case wrSgir a =>
    simp only [performed, dispatchSgi]
    split
    · exact State.begin_withCtlr c s _
    split
    · exact State.begin_withCtlr c s _
    split
    · exact State.begin_withCtlr c s _
    · rfl
  all_goals rfl

/-- Dispatch does not read the bit. -/
theorem exec_withCtlr {i : Instr} (hi : i.group ≠ .ctlr) (s : State) :
    exec i (s.withCtlr c) = mapNext (·.withCtlr c) (exec i s) := by
  have href : (s.withCtlr c).accessRefusal i.accessor.toNat = s.accessRefusal i.accessor.toNat := rfl
  have habs : (s.withCtlr c).rankAbsent i.group i.accessor.toNat i.wordIndex =
    s.rankAbsent i.group i.accessor.toNat i.wordIndex := rfl
  simp only [exec_eq_access, access, href, habs, performed_withCtlr c hi]
  cases s.accessRefusal i.accessor.toNat with
  | some r => rfl
  | none =>
    dsimp only
    split
    · rfl
    · split <;> rfl

theorem injectLink_withCtlr (v L : Nat) (s : State) :
    injectLink v L (s.withCtlr c) = ((injectLink v L s).1.withCtlr c, (injectLink v L s).2) := by
  have hd : (s.withCtlr c).desc v L = s.desc v L := rfl
  have he : (s.withCtlr c).envAt v = s.envAt v := rfl
  simp only [injectLink, hd, he]
  cases (s.desc v L).linked with
  | some u => rfl
  | none =>
    dsimp only
    split <;> rfl

theorem enableStep_withCtlr (v L : Nat) (s : State) :
    enableStep v L (s.withCtlr c) = ((enableStep v L s).1.withCtlr c, (enableStep v L s).2) := by
  have hf : forcesInjection v L (s.withCtlr c) = forcesInjection v L s := rfl
  simp only [enableStep, hf]
  split <;> rfl

theorem disableStep_withCtlr (v L : Nat) (s : State) :
    disableStep v L (s.withCtlr c) = (disableStep v L s).withCtlr c := by
  have hd : (s.withCtlr c).desc v L = s.desc v L := rfl
  simp only [disableStep, hd]
  cases (s.desc v L).linked <;> rfl

theorem workStep_withCtlr (w : Work) (s : State) :
    workStep w (s.withCtlr c) = ((workStep w s).1.withCtlr c, (workStep w s).2) := by
  cases w with
  | nothing => rfl
  | enable v m n =>
    simp only [workStep]
    cases lowestBit m with
    | some i => simp only [enableStep_withCtlr]
    | none => rfl
  | disable v m n =>
    simp only [workStep]
    cases lowestBit m with
    | some i => simp only [disableStep_withCtlr]
    | none => rfl
  | fanOut m id =>
    simp only [workStep]
    cases lowestBit m with
    | some j =>
      have ht : badTarget (s.withCtlr c) j = badTarget s j := rfl
      simp only [ht]
      split <;> rfl
    | none => rfl

theorem taskStep_withCtlr (x : Task) (s : State) :
    taskStep x (s.withCtlr c) = ((taskStep x s).1.withCtlr c, (taskStep x s).2) := by
  simp only [taskStep]
  cases x.inj with
  | link v L => simp only [injectLink_withCtlr]
  | notify v => rfl
  | none => simp only [workStep_withCtlr]

theorem advance_withCtlr (k : Nat) (s : State) :
    advance k (s.withCtlr c) = mapNext (·.withCtlr c) (advance k s) := by
  have ht : (s.withCtlr c).tasks = s.tasks := rfl
  simp only [advance, ht]
  cases s.tasks[k]? with
  | some x =>
    simp only [taskStep_withCtlr, State.putTask_withCtlr]
    rfl
  | none => rfl

theorem collaborator_withCtlr (u L : Nat) {f : State → State} (hf : ∀ s, f (s.withCtlr c) = (f s).withCtlr c)
    (s : State) : collaborator u L f (s.withCtlr c) = mapNext (·.withCtlr c) (collaborator u L f s) := by
  have hl : (s.withCtlr c).lineRefusal u L = s.lineRefusal u L := rfl
  have hd : (s.withCtlr c).desc u L = s.desc u L := rfl
  simp only [collaborator, hl, hd, hf]
  cases s.lineRefusal u L with
  | some r => rfl
  | none =>
    dsimp only
    split <;> rfl

theorem portInject_withCtlr (v L : Nat) (cp : Option Nat) (s : State) :
    portInject v L cp (s.withCtlr c) = mapNext (·.withCtlr c) (portInject v L cp s) := by
  have hl : (s.withCtlr c).lineRefusal v L = s.lineRefusal v L := rfl
  simp only [portInject, hl, injectLink_withCtlr, State.begin_withCtlr]
  cases s.lineRefusal v L <;> rfl

theorem portCreateVcpu_withCtlr (v : Nat) (s : State) :
    portCreateVcpu v (s.withCtlr c) = mapNext (·.withCtlr c) (portCreateVcpu v s) := by
  have hv : (s.withCtlr c).vcpuAt v = s.vcpuAt v := rfl
  simp only [portCreateVcpu, hv]
  change (if s.phase ≠ .live then _ else if s.terminated = true then _ else if ¬ v < s.cfg.nvcpu then _ else _) = _
  split
  · rfl
  split
  · rfl
  split
  · rfl
  split <;> rfl

theorem portDestroyVcpu_withCtlr (v : Nat) (s : State) :
    portDestroyVcpu v (s.withCtlr c) = mapNext (·.withCtlr c) (portDestroyVcpu v s) := by
  have hl : (s.withCtlr c).vcpuRefusal v = s.vcpuRefusal v := rfl
  have ht : (s.withCtlr c).tasks = s.tasks := rfl
  simp only [portDestroyVcpu, hl, ht]
  cases s.vcpuRefusal v with
  | some r => rfl
  | none =>
    dsimp only
    split <;> rfl

theorem portDestroyDomain_withCtlr (s : State) :
    portDestroyDomain (s.withCtlr c) = mapNext (·.withCtlr c) (portDestroyDomain s) := by
  have hp : (s.withCtlr c).phase = s.phase := rfl
  have ht : (s.withCtlr c).tasks = s.tasks := rfl
  simp only [portDestroyDomain, hp, ht]
  split
  · rfl
  · split <;> rfl

theorem portStep_withCtlr {op : PortOp} (hop : ∀ d, op ≠ .createDomain d) (s : State) :
    portStep op (s.withCtlr c) = mapNext (·.withCtlr c) (portStep op s) := by
  cases op with
  | inject v L cp => exact portInject_withCtlr c v L cp s
  | ciVisible u L b =>
    exact collaborator_withCtlr c u L (f := fun s => s.setDesc u L ((s.desc u L).setVisible b)) (fun _ => rfl) s
  | ciActive u L b =>
    exact collaborator_withCtlr c u L (f := fun s => s.setDesc u L ((s.desc u L).setActive b)) (fun _ => rfl) s
  | ciRetire u L =>
    exact collaborator_withCtlr c u L
      (f := fun s => (s.setInflight u ((s.inflight u).erase L)).setDesc u L (s.desc u L).retire) (fun _ => rfl) s
  | createDomain d => exact absurd rfl (hop d)
  | createVcpu v => exact portCreateVcpu_withCtlr c v s
  | destroyVcpu v => exact portDestroyVcpu_withCtlr c v s
  | destroyDomain => exact portDestroyDomain_withCtlr c s

theorem envStep_withCtlr (m : EnvMove) (s : State) :
    envStep m (s.withCtlr c) = mapNext (·.withCtlr c) (envStep m s) := by
  have hp : (s.withCtlr c).phase = s.phase := rfl
  have hcfg : (s.withCtlr c).cfg = s.cfg := rfl
  simp only [envStep, hp, hcfg]
  split
  · rfl
  · split <;> rfl

theorem settle_withCtlr (s : State) (r : Result) :
    settle (s.withCtlr c) (mapNext (·.withCtlr c) r) = mapNext (·.withCtlr c) (settle s r) := by
  cases r with
  | next t => rfl
  | fault e => rfl
  | refused e => cases e <;> rfl

/-- A step that serves no CTLR access and creates no domain commutes with setting the bit. -/
theorem step_withCtlr {s : State}
    (haccess : ∀ bs rest i, s.inputs = .access bs :: rest → decode bs = .ok i → i.group ≠ .ctlr)
    (hcreate : ∀ d rest, s.inputs ≠ .port (.createDomain d) :: rest) :
    step (s.withCtlr c) = mapNext (·.withCtlr c) (step s) := by
  have hin : (s.withCtlr c).inputs = s.inputs := rfl
  have htasks : (s.withCtlr c).tasks = s.tasks := rfl
  have hpop : (s.withCtlr c).popInput = s.popInput.withCtlr c := rfl
  have hbusy : ∀ v, (s.withCtlr c).busyTask v = s.busyTask v := fun _ => rfl
  simp only [step, hin, hpop, hbusy]
  cases hi : s.inputs with
  | nil =>
    simp only [idleStep, htasks]
    split
    · rfl
    · exact advance_withCtlr c 0 s
  | cons x rest =>
    cases x with
    | access bytes =>
      dsimp only
      cases hd : decode bytes with
      | error e => rfl
      | ok i =>
        dsimp only
        cases s.busyTask i.accessor.toNat with
        | some k => exact advance_withCtlr c k s
        | none =>
          dsimp only
          rw [exec_withCtlr c (haccess bytes rest i hi hd), settle_withCtlr]
    | port op =>
      dsimp only
      rw [portStep_withCtlr c (fun d e => hcreate d rest (e ▸ hi)), settle_withCtlr]
    | env m =>
      dsimp only
      rw [envStep_withCtlr, settle_withCtlr]
    | resume k => exact advance_withCtlr c k s.popInput
    | await =>
      simp only [awaitStep, htasks, hpop]
      split
      · rfl
      · exact advance_withCtlr c 0 s

end

/-- Settles O50: the step commutes with setting the bit; with the bit it holds already, that says that the step leaves
it. -/
theorem controllerGatesNothing : Obligations.ControllerGatesNothing := by
  intro s t c haccess hcreate h
  have hcommutes : ∀ c, step (s.withCtlr c) = .next (t.withCtlr c) := by
    intro c
    rw [step_withCtlr c haccess hcreate, h]
    rfl
  refine ⟨?_, hcommutes c⟩
  have hself := hcommutes s.ctlr
  rw [State.withCtlr_self, h] at hself
  have ht : t = t.withCtlr s.ctlr := Host.Outcome.next.inj hself
  have hctlr := congrArg State.ctlr ht
  exact hctlr

end Sys2Proof.Machine

/-! # Reads and stored words (20_memory.md)

What a read leaves unchanged, what a byte read returns of its register word, and what a read returns after a word write
of the same register. -/

/-! ## A read changes nothing but the replies -/

namespace Sys2Proof.Machine

/-- A read that dispatch lets through returns its value and does nothing else; a read of SGIR also counts the free value
it drew (41_mmio_dispatch.md R126, R135). -/
theorem performed_of_isRead {i : Instr} (hi : i.isRead = true) (s : State) :
    (∃ x, performed i s = s.reply i.accessor.toNat x) ∨
    ((∃ a, i = .rdSgir a) ∧
      ∃ x, performed i s = { s.reply i.accessor.toNat x with draws := s.draws + 1 }) := by
  cases i
  case rdSgir a => exact .inr ⟨⟨a, rfl⟩, _, rfl⟩
  all_goals cases hi
  all_goals exact .inl ⟨_, rfl⟩

/-- Settles O13: of the three outcomes of an access, Fatal terminates the domain, and the other two of a read are
replies. -/
theorem readsChangeNothing : Obligations.ReadsChangeNothing := by
  intro i s t hi h hlive
  obtain ⟨-, ⟨-, rfl⟩ | ⟨-, -, rfl⟩ | ⟨-, -, rfl⟩⟩ := exec_next h
  case inl => exact ⟨⟨_, rfl⟩, fun hdraws => absurd rfl hdraws⟩
  case inr.inl => cases hlive
  case inr.inr =>
    rcases performed_of_isRead hi s with ⟨x, e⟩ | ⟨hsgir, x, e⟩ <;> rw [e]
    · exact ⟨⟨x, rfl⟩, fun hdraws => absurd rfl hdraws⟩
    · exact ⟨⟨x, rfl⟩, fun _ => hsgir⟩

end Sys2Proof.Machine

/-! ## A byte read returns a lane of the word read -/

namespace Sys2Proof.Machine

/-- A state tells which value the last reply returned. -/
theorem State.reply_handledRead_inj {s : State} {v : Nat} {x y : Word}
    (h : (.next (s.reply v (.handledRead x)) : Result) = .next (s.reply v (.handledRead y))) : x = y := by
  have hreplies := congrArg State.replies (Host.Outcome.next.inj h)
  simpa using hreplies

theorem readByte_zero (l : BitVec 2) (sg : Bool) : readByte 0#32 l sg = 0#32 := by
  cases sg <;> simp [readByte, lane]

/-- If the word read of a register word returns a value, the byte read of it is let through as well and returns a lane
of that value, the zero of an absent rank included (40_rank_store.md R106, 41_mmio_dispatch.md R122). -/
theorem readAccess_byte_of_word {g : Group} {n : Nat} {w : State → Word} {v : Byte} {l : BitVec 2} {sg sg' : Bool}
    {x : Word} {s : State} (hg : g.WidthAllowed .byte l)
    (h : readAccess g n ⟨v, .word, sg, 0#2⟩ (fun s => .handledRead (readValue (w s) ⟨v, .word, sg, 0#2⟩)) s =
      .next (s.reply v.toNat (.handledRead x))) :
    readAccess g n ⟨v, .byte, sg', l⟩ (fun s => .handledRead (readValue (w s) ⟨v, .byte, sg', l⟩)) s =
      .next (s.reply v.toNat (.handledRead (readByte x l sg'))) := by
  by_cases hr : s.Ready v.toNat
  · by_cases hp : s.Present g n
    · rw [readAccess, access_of_ok hr hp (.inl ⟨rfl, rfl⟩)] at h
      obtain rfl : w s = x := State.reply_handledRead_inj h
      rw [readAccess, access_of_ok hr hp hg]
      rfl
    · rw [readAccess, access_of_absent hr hp] at h
      obtain rfl : 0#32 = x := State.reply_handledRead_inj h
      rw [readAccess, access_of_absent hr hp, readByte_zero]
  · obtain ⟨c, hc⟩ := access_of_not_ready hr
    rw [readAccess, hc] at h
    cases h

/-- The reads of the six groups that allow bytes have one form: the whole register word or its addressed byte
(20_memory.md R58, 41_mmio_dispatch.md R123). -/
theorem exec_byteGroup_read {n5 : BitVec 5} {n8 : BitVec 8} {n2 : BitVec 2} {f : ReadArgs → Instr}
    (hf : f ∈ [Instr.rdIspendr n5, .rdIcpendr n5, .rdIpriorityr n8, .rdItargetsr n8, .rdCpendsgir n2,
      .rdSpendsgir n2]) (v : Byte) :
    ∃ (g : Group) (n : Nat) (w : State → Word), (∀ l, g.WidthAllowed .byte l) ∧
      ∀ sz sg l s, exec (f ⟨v, sz, sg, l⟩) s =
        readAccess g n ⟨v, sz, sg, l⟩ (fun s => .handledRead (readValue (w s) ⟨v, sz, sg, l⟩)) s := by
  have hallowed : ∀ g ∈ [Group.ispendr, .icpendr, .ipriorityr, .itargetsr, .cpendsgir, .spendsgir],
      ∀ l, g.WidthAllowed .byte l := fun g hg l => .inr ⟨rfl, hg⟩
  simp only [List.mem_cons, List.not_mem_nil, or_false] at hf
  rcases hf with rfl | rfl | rfl | rfl | rfl | rfl
  · exact ⟨.ispendr, n5.toNat, fun s => (s.rankAt v.toNat n5.toNat).pending,
      hallowed _ (by decide), fun _ _ _ _ => rfl⟩
  · exact ⟨.icpendr, n5.toNat, fun s => (s.rankAt v.toNat n5.toNat).pending,
      hallowed _ (by decide), fun _ _ _ _ => rfl⟩
  · exact ⟨.ipriorityr, n8.toNat, fun s => pack (s.rankAt v.toNat (n8.toNat / 8)).priority (n8.toNat % 8),
      hallowed _ (by decide), fun _ _ _ _ => rfl⟩
  · exact ⟨.itargetsr, n8.toNat, fun s => pack (s.rankAt v.toNat (n8.toNat / 8)).target (n8.toNat % 8),
      hallowed _ (by decide), fun _ _ _ _ => rfl⟩
  · exact ⟨.cpendsgir, n2.toNat, fun s => pack (s.rankAt v.toNat 0).pendsgi n2.toNat,
      hallowed _ (by decide), fun _ _ _ _ => rfl⟩
  · exact ⟨.spendsgir, n2.toNat, fun s => pack (s.rankAt v.toNat 0).pendsgi n2.toNat,
      hallowed _ (by decide), fun _ _ _ _ => rfl⟩

/-- Settles O22: the reads of the six groups have one form, and for that form it is a fact about dispatch. -/
theorem byteReadIsLaneOfWordRead : Obligations.ByteReadIsLaneOfWordRead := by
  intro n5 n8 n2 f hf v l sg sg' x s h
  obtain ⟨g, n, w, hbyte, hexec⟩ := exec_byteGroup_read hf v
  rw [hexec] at h ⊢
  exact readAccess_byte_of_word (hbyte l) h

end Sys2Proof.Machine

/-! ## A stored word reads back -/

namespace Sys2Proof.Machine

/-- A rank that holds a valid line is present (00_scope.md R8). -/
theorem Config.rank_le_nsr {c : Config} {r : Nat} (h : 32 * r < c.nlines) : r ≤ c.nsr := by
  simp only [Config.nlines] at h
  simp only [Config.nsr]
  omega

/-- Reading back a present rank. -/
theorem State.rankAt_setRank_of_sized {s : State} (hs : s.Sized) {v r : Nat} (hv : v < s.cfg.nvcpu)
    (hr : r ≤ s.cfg.nsr) (R : Rank) : (s.setRank v r R).rankAt v r = R := by
  obtain ⟨hshared, -, hvcpu, -⟩ := hs
  rw [State.rankAt_setRank, if_pos ⟨rfl, by omega⟩]

/-- After a write that stores a rank and returns, its accessor can make another access. -/
theorem State.Ready.setRank_reply {s : State} {v : Nat} (h : s.Ready v) (r : Nat) (R : Rank) (x : AccessResult) :
    ((s.setRank v r R).reply v x).Ready v := by
  simpa [State.Ready] using h

/-- A word whose four lines are valid is stored whole (40_rank_store.md R107). -/
theorem pack_storeBytes_word {c : Config} {r w : Nat} (a : Vector Byte 32) {x : WriteArgs} (hsz : x.sz = .word)
    (hw : w < 8) (hvalid : 32 * r + 4 * w + 3 < c.nlines) : pack (storeBytes c r w a x) w = x.val := by
  refine eq_of_lanes fun k hk => ?_
  have hlane : (4 * w + k) % 4 = k := by omega
  rw [pack_lane _ _ _ hk, storeBytes_getD _ _ _ _ _ hw,
    if_pos ⟨by omega, by omega, fun hne => absurd hsz hne⟩, if_pos hsz, hlane]

/-- A config word whose sixteen lines are valid is stored whole (40_rank_store.md R110). -/
theorem storeConfig_getD_self {c : Config} {r w : Nat} (a : Vector Word 2) (val : Word) (hw : w < 2)
    (hvalid : 32 * r + 16 * w + 15 < c.nlines) : (storeConfig c r w a val).getD w 0#32 = val := by
  refine BitVec.eq_of_getLsbD_eq fun i hi => ?_
  rw [storeConfig_getLsbD _ _ _ _ _ hw _ _ hw hi, if_pos ⟨rfl, by omega⟩]

/-- A word write of a group with `b` bits per line that stores the rank of its word, and the word read after it: both go
through, and the read sees the rank stored (20_memory.md R60). -/
theorem readAccess_after_writeAccess {g : Group} {b n : Nat} {v : Byte} {val : Word} {sg : Bool} {s : State}
    {store : State → State} {R : Rank} {value : Rank → Word} (hs : s.Sized) (hr : s.Ready v.toNat)
    (hb : g.bitsPerLine = some b) (hn : n / b ≤ s.cfg.nsr) (hstore : store s = s.setRank v.toNat (n / b) R)
    (hvalue : value R = val) :
    ∃ t, writeAccess g n ⟨v, .word, 0#2, val⟩ store s = .next t ∧
      readAccess g n ⟨v, .word, sg, 0#2⟩ (fun s => .handledRead (value (s.rankAt v.toNat (n / b)))) t =
        .next (t.reply v.toNat (.handledRead val)) := by
  have hpresent : ∀ t : State, t.cfg = s.cfg → t.Present g n := by
    intro t hcfg b' hb'
    obtain rfl : b = b' := Option.some.inj (hb.symm.trans hb')
    rwa [hcfg]
  have ⟨_, _, hv, _⟩ := hr
  refine ⟨(s.setRank v.toNat (n / b) R).reply v.toNat .handled, ?_, ?_⟩
  · rw [writeAccess, access_of_ok hr (hpresent s rfl) (.inl ⟨rfl, rfl⟩), hstore]
  · rw [readAccess, access_of_ok (hr.setRank_reply _ R _) (hpresent _ rfl) (.inl ⟨rfl, rfl⟩), State.reply_rankAt,
      State.rankAt_setRank_of_sized hs hv hn, hvalue]

/-- Settles O30: the read sees the rank the write stored, and the word of that rank is the value written. -/
theorem writeReadRoundTrip : Obligations.WriteReadRoundTrip := by
  intro v val sg s hs hr
  refine ⟨fun n hvalid => ⟨?priority, fun _ => ?target⟩, fun n _ hvalid => ?config⟩
  case priority =>
    simp only [exec, execWrIpriorityr, execRdIpriorityr]
    exact readAccess_after_writeAccess (b := 8) (value := fun R => pack R.priority (n.toNat % 8)) hs hr rfl
      (Config.rank_le_nsr (by omega)) rfl (pack_storeBytes_word _ rfl (by omega) (by omega))
  case target =>
    simp only [exec, execWrItargetsr, execRdItargetsr]
    exact readAccess_after_writeAccess (b := 8) (value := fun R => pack R.target (n.toNat % 8)) hs hr rfl
      (Config.rank_le_nsr (by omega)) rfl (pack_storeBytes_word _ rfl (by omega) (by omega))
  case config =>
    simp only [exec, execWrIcfgr, execRdIcfgr]
    exact readAccess_after_writeAccess (b := 2) (value := fun R => R.config.getD (n.toNat % 2) 0#32) hs hr rfl
      (Config.rank_le_nsr (by omega)) rfl (storeConfig_getD_self _ _ (by omega) (by omega))

end Sys2Proof.Machine

/-! # Decode and encode (30_encoding.md)

The rows of the table match intervals of keys, one inside another or apart. A key selects the smallest interval around it,
and that is the row whose instruction is well formed. -/

namespace Sys2Proof

/-! ## The row a key selects

### Rows as intervals of keys (R71, R72) -/

/-- Fields that stand side by side add up. -/
theorem toNat_append_eq_add {w u : Nat} (x : BitVec w) (y : BitVec u) :
    (x ++ y).toNat = x.toNat * 2 ^ u + y.toNat := by
  rw [BitVec.toNat_append, ← Nat.shiftLeft_add_eq_or_of_lt y.isLt, Nat.shiftLeft_eq]

/-- How many low key bits a row leaves free. -/
def KeyRow.freeBits (r : KeyRow) : Nat := 13 - Machine.bitCount r.mask

/-- The keys a row matches, as an interval: its first one, and the one after its last. -/
def KeyRow.range (r : KeyRow) : Nat × Nat := (r.pattern.toNat, r.pattern.toNat + 2 ^ r.freeBits)

theorem KeyRow.bitCount_mask (r : KeyRow) : Machine.bitCount r.mask = 13 - r.freeBits := by
  have h := Machine.bitCount_le r.mask
  rw [KeyRow.freeBits]; omega

/-- A row of the table fixes the leading bits of the key and leaves at least the low two free (R71). -/
theorem keyRows_leadingBits : ∀ r ∈ keyRows, 2 ≤ r.freeBits ∧ r.freeBits ≤ 12 ∧
    r.mask = BitVec.allOnes 13 <<< r.freeBits ∧ r.pattern.toNat % 2 ^ r.freeBits = 0 := by
  decide

theorem keyRows_nodup : (keyRows.map (fun r => (r.mask, r.pattern))).Nodup := by decide

theorem keyRows_sorted : keyRows.Pairwise (fun r q => Machine.bitCount q.mask ≤ Machine.bitCount r.mask) := by
  decide

theorem and_leadingBits_toNat (key : BitVec 13) {f : Nat} (hf : f ≤ 13) :
    (key &&& (BitVec.allOnes 13 <<< f)).toNat = key.toNat / 2 ^ f * 2 ^ f := by
  have h : key &&& (BitVec.allOnes 13 <<< f) = (key >>> f) <<< f := by
    refine BitVec.eq_of_getLsbD_eq fun i hi => ?_
    rw [BitVec.getLsbD_and, BitVec.getLsbD_shiftLeft, BitVec.getLsbD_shiftLeft, BitVec.getLsbD_ushiftRight,
      BitVec.getLsbD_allOnes]
    by_cases hif : i < f
    · simp [hif]
    · simp [hif, hi, show i - f < 13 by omega, Nat.add_sub_cancel' (Nat.le_of_not_lt hif)]
  rw [h, BitVec.toNat_shiftLeft, BitVec.toNat_ushiftRight, Nat.shiftLeft_eq, Nat.shiftRight_eq_div_pow]
  exact Nat.mod_eq_of_lt ((Nat.div_mul_le_self _ _).trans_lt key.isLt)

/-- A row matches the keys with its leading bits. -/
theorem KeyRow.hits_iff_div {r : KeyRow} (hr : r ∈ keyRows) (key : BitVec 13) :
    r.hits key = true ↔ key.toNat / 2 ^ r.freeBits = r.pattern.toNat / 2 ^ r.freeBits := by
  obtain ⟨-, hle, hmask, hpat⟩ := keyRows_leadingBits r hr
  rw [KeyRow.hits, beq_iff_eq, ← BitVec.toNat_inj, hmask, and_leadingBits_toNat key (by omega)]
  conv_lhs => rw [← Nat.div_mul_cancel (Nat.dvd_of_mod_eq_zero hpat)]
  exact Nat.mul_left_inj (by positivity)

/-- A row matches the keys of its range (R72). -/
theorem KeyRow.hits_iff_range {r : KeyRow} (hr : r ∈ keyRows) (key : BitVec 13) :
    r.hits key = true ↔ r.range.1 ≤ key.toNat ∧ key.toNat < r.range.2 := by
  obtain ⟨-, -, -, hpat⟩ := keyRows_leadingBits r hr
  obtain ⟨c, hc⟩ := Nat.dvd_of_mod_eq_zero hpat
  have hpos : 0 < 2 ^ r.freeBits := by positivity
  rw [r.hits_iff_div hr, KeyRow.range, hc, Nat.mul_div_cancel_left _ hpos, Nat.div_eq_iff hpos, Nat.mul_comm c]
  omega

/-- Keys with the same bits above the low `f` match the same rows that leave at least `f` bits free. -/
theorem KeyRow.hits_congr {r : KeyRow} (hr : r ∈ keyRows) {f : Nat} (hf : f ≤ r.freeBits) {key key' : BitVec 13}
    (h : key.toNat / 2 ^ f = key'.toNat / 2 ^ f) : r.hits key = r.hits key' := by
  have hcoarse : ∀ n, n / 2 ^ r.freeBits = n / 2 ^ f / 2 ^ (r.freeBits - f) := by
    intro n; rw [Nat.div_div_eq_div_mul, ← pow_add, Nat.add_sub_cancel' hf]
  rw [Bool.eq_iff_iff, r.hits_iff_div hr, r.hits_iff_div hr, hcoarse key.toNat, hcoarse key'.toNat, h]

/-! ### The most specific row (R73) -/

/-- Two rows that match one key and have the same number of mask bits are the same row (R73). -/
theorem keyRow_eq_of_hits {r q : KeyRow} (hr : r ∈ keyRows) (hq : q ∈ keyRows) {key : BitVec 13}
    (hrk : r.hits key = true) (hqk : q.hits key = true)
    (hbits : Machine.bitCount q.mask = Machine.bitCount r.mask) : q = r := by
  have hfree : q.freeBits = r.freeBits := by rw [KeyRow.freeBits, hbits, KeyRow.freeBits]
  obtain ⟨-, -, hmr, -⟩ := keyRows_leadingBits r hr
  obtain ⟨-, -, hmq, -⟩ := keyRows_leadingBits q hq
  have hmask : q.mask = r.mask := by rw [hmq, hmr, hfree]
  rw [KeyRow.hits, beq_iff_eq] at hrk hqk
  exact List.inj_on_of_nodup_map keyRows_nodup hq hr (Prod.ext hmask (by rw [← hrk, ← hqk, hmask]))

/-- Every key selects a row, since it matches a default one (R73). -/
theorem selectRow_isSome (key : BitVec 13) : ∃ r, selectRow key = some r := by
  rw [← Option.isSome_iff_exists, selectRow, List.find?_isSome]
  have hdefault : ∃ r ∈ keyRows1, r.range.1 ≤ key.toNat ∧ key.toNat < r.range.2 := by
    by_cases h : key.toNat < 0x1000
    · exact ⟨_, .head _, Nat.zero_le _, h⟩
    · exact ⟨_, .tail _ (.head _), Nat.le_of_not_lt h, key.isLt⟩
  obtain ⟨r, hr, hrange⟩ := hdefault
  have hmem : r ∈ keyRows := List.mem_append_right _ hr
  exact ⟨r, hmem, (r.hits_iff_range hmem key).2 hrange⟩

/-- The table is sorted, so the first row that matches has the most mask bits (R73). -/
theorem selectRow_spec {key : BitVec 13} {r : KeyRow} (h : selectRow key = some r) :
    r ∈ keyRows ∧ r.hits key = true ∧
      ∀ q ∈ keyRows, q.hits key = true → Machine.bitCount q.mask ≤ Machine.bitCount r.mask := by
  obtain ⟨hrk, before, after, hsplit, hbefore⟩ := List.find?_eq_some_iff_append.1 h
  refine ⟨List.mem_of_find?_eq_some h, hrk, fun q hq hqk => ?_⟩
  have hsorted := keyRows_sorted
  rw [hsplit, List.pairwise_append, List.pairwise_cons] at hsorted
  obtain ⟨-, ⟨hafter, -⟩, -⟩ := hsorted
  rw [hsplit, List.mem_append, List.mem_cons] at hq
  rcases hq with hq | rfl | hq
  · simpa [hqk] using hbefore q hq
  · exact le_rfl
  · exact hafter q hq

/-- The row selected is the one that matches and has the most mask bits (R73). -/
theorem selectRow_eq_some_iff {key : BitVec 13} {r : KeyRow} :
    selectRow key = some r ↔ r ∈ keyRows ∧ r.hits key = true ∧
      ∀ q ∈ keyRows, q.hits key = true → Machine.bitCount q.mask ≤ Machine.bitCount r.mask := by
  refine ⟨selectRow_spec, fun ⟨hr, hrk, hmax⟩ => ?_⟩
  obtain ⟨q, hq⟩ := selectRow_isSome key
  obtain ⟨hqmem, hqk, hqmax⟩ := selectRow_spec hq
  rw [hq, keyRow_eq_of_hits hr hqmem hrk hqk (le_antisymm (hmax q hqmem hqk) (hqmax r hr hrk))]

theorem decodeAccess_of_selectRow {x : Access} {r : KeyRow} (h : selectRow x.key = some r) :
    decodeAccess x = r.build x := by
  simp only [decodeAccess, h]

/-- Settles O4: the table is sorted by mask bits, and rows with equally many have the same mask. -/
theorem mostSpecificRowSelected : Obligations.MostSpecificRowSelected := by
  intro x
  obtain ⟨r, hsel⟩ := selectRow_isSome x.key
  obtain ⟨hr, hrk, hmax⟩ := selectRow_spec hsel
  refine ⟨r, hr, hrk, decodeAccess_of_selectRow hsel, fun q hq hqk => ⟨hmax q hq hqk, fun hbits => ?_⟩⟩
  rw [keyRow_eq_of_hits hr hq hrk hqk hbits]
  exact ⟨rfl, rfl⟩

/-! ### The more specific rows of a range -/

/-- The ranges of the more specific rows inside the range of `r`: the keys of `r` that select another row. -/
def KeyRow.holes (r : KeyRow) : List (Nat × Nat) :=
  (keyRows.filter (fun q => decide (q.freeBits < r.freeBits) && r.hits q.pattern)).map KeyRow.range

/-- A row that matches is the one selected exactly when the key lies in no hole of its range. -/
theorem selectRow_eq_some_iff_holes {key : BitVec 13} {r : KeyRow} (hr : r ∈ keyRows) (hrk : r.hits key = true) :
    selectRow key = some r ↔ ∀ p ∈ r.holes, ¬ (p.1 ≤ key.toNat ∧ key.toNat < p.2) := by
  rw [selectRow_eq_some_iff]
  have hbr := r.bitCount_mask
  constructor
  · rintro ⟨-, -, hmax⟩ p hp hpk
    obtain ⟨q, hq, rfl⟩ := List.mem_map.1 hp
    obtain ⟨hqmem, hspec⟩ := List.mem_filter.1 hq
    rw [Bool.and_eq_true, decide_eq_true_eq] at hspec
    have hbq := q.bitCount_mask
    obtain ⟨-, hle, -⟩ := keyRows_leadingBits r hr
    have hbits := hmax q hqmem ((q.hits_iff_range hqmem key).2 hpk)
    omega
  · refine fun hholes => ⟨hr, hrk, fun q hq hqk => ?_⟩
    have hbq := q.bitCount_mask
    by_contra hlt
    have hfree : q.freeBits < r.freeBits := by omega
    have hin : r.hits q.pattern = true := by
      rw [← hrk]; exact r.hits_congr hr hfree.le ((q.hits_iff_div hq key).1 hqk).symm
    exact hholes q.range (List.mem_map.2 ⟨q, List.mem_filter.2 ⟨hq, by simp [hfree, hin]⟩, rfl⟩)
      ((q.hits_iff_range hq key).1 hqk)

end Sys2Proof

namespace Sys2Proof

/-! ## The row selected is the one that builds a well-formed instruction (R72 to R74, R79)

A row that matches a key is passed over exactly when the key lies in a hole of its range, and those are the keys whose
index the row does not allow. -/

theorem Access.key_toNat (x : Access) : x.key.toNat = x.W.toNat * 2 ^ 12 + x.off.toNat := by
  rw [Access.key, toNat_append_eq_add, BitVec.toNat_ofBool]

/-- A word index is read off the key (R71, R72). -/
theorem Access.index_toNat (x : Access) {k : Nat} (hk : k ≤ 10) :
    (x.index k).toNat = x.key.toNat / 4 % 2 ^ k := by
  have hdvd : 2 ^ k * 2 ^ (10 - k) = 2 ^ 10 := by rw [← pow_add, Nat.add_sub_cancel' hk]
  rw [Access.index, BitVec.extractLsb'_toNat, Nat.shiftRight_eq_div_pow, x.key_toNat,
    show x.W.toNat * 2 ^ 12 + x.off.toNat = x.off.toNat + 4 * (2 ^ k * (2 ^ (10 - k) * x.W.toNat)) by
      rw [← mul_assoc (2 ^ k), hdvd]; omega,
    Nat.add_mul_div_left _ _ (by decide), Nat.add_mul_mod_self_left]

/-- A write to 0xF00 is a well-formed instruction, whatever its width and value (R79, log 8). -/
theorem decodeSgir_wf (x : Access) : (decodeSgir x).wf = true := by
  simp only [decodeSgir]
  split
  · split
    · rfl
    · split
      · rfl
      · split
        · rfl
        · have hfilter : ∀ f : BitVec 2, f ≠ 0#2 → f ≠ 1#2 → f ≠ 2#2 → f = 3#2 := by decide
          simpa [Instr.wf] using hfilter _ ‹_› ‹_› ‹_›
  next h => simpa [Instr.wf, Access.writeArgs, imp_iff_not_or] using h

/-- The rows with at least 6 mask bits have no hole, and every index in their range is legal. -/
theorem plainRows_holes_wf (x : Access) : ∀ r ∈ keyRowsFrom8 ++ keyRows6, r.holes = [] ∧ (r.build x).WF := by
  have hholes : ∀ r ∈ keyRowsFrom8 ++ keyRows6, r.holes = [] := by decide
  have hwf : ∀ r ∈ keyRowsFrom8 ++ keyRows6, (r.build x).WF := by
    simp only [keyRowsFrom8, keyRows11, keyRows10, keyRows9, keyRows8, keyRows6, List.forall_mem_append,
      List.forall_mem_cons, Instr.WF, decodeSgir_wf]
    simp [Instr.wf]
  exact fun r hr => ⟨hholes r hr, hwf r hr⟩

/-- The register map of R72 but for its reserved words: the first offset of each range, and the one after its last. -/
def mappedRanges : List (Nat × Nat) :=
  [(0x000, 0x004), (0x004, 0x008), (0x008, 0x00C), (0x020, 0x040), (0x080, 0x100), (0x100, 0x180), (0x180, 0x200),
   (0x200, 0x280), (0x280, 0x300), (0x300, 0x380), (0x380, 0x400), (0x400, 0x800), (0x800, 0xC00), (0xC00, 0xD00),
   (0xD00, 0xE00), (0xE00, 0xF00), (0xF00, 0xF04), (0xF10, 0xF20), (0xF20, 0xF30), (0xFD0, 0xFE0), (0xFE0, 0x1000)]

/-- The map and the default ranges of R72 and R133 exclude each other and cover the frame. -/
theorem not_mapped_iff_defaultReserved (x : Access) :
    (∀ p ∈ mappedRanges, ¬ (p.1 ≤ x.off.toNat ∧ x.off.toNat < p.2)) ↔ defaultReserved (x.index 10) = true := by
  have hoff := x.off.isLt
  have hindex : (x.index 10).toNat = x.off.toNat / 4 := by
    rw [x.index_toNat (by decide), x.key_toNat]; omega
  simp only [mappedRanges, List.forall_mem_cons, List.not_mem_nil, false_imp_iff, implies_true, and_true,
    defaultReserved, Bool.or_eq_true, Bool.and_eq_true, decide_eq_true_eq, BitVec.le_def, hindex, BitVec.toNat_ofNat]
  omega

/-- The holes of a default row are the map, and inside it the reserved and the read-only words. -/
theorem defaultRow_holes : ∀ r ∈ keyRows1,
    (∀ p ∈ mappedRanges, (p.1 + r.pattern.toNat, p.2 + r.pattern.toNat) ∈ r.holes) ∧
    ∀ p ∈ r.holes, ∃ q ∈ mappedRanges, q.1 + r.pattern.toNat ≤ p.1 ∧ p.2 ≤ q.2 + r.pattern.toNat := by
  decide

theorem defaultRow_range : ∀ r ∈ keyRows1,
    r.range = (r.pattern.toNat, r.pattern.toNat + 0x1000) ∧ (r.pattern.toNat = 0 ∨ r.pattern.toNat = 0x1000) := by
  decide

/-- A default row answers exactly the keys of its direction that the map does not take. -/
theorem defaultRow_holes_iff {x : Access} {r : KeyRow} (hr : r ∈ keyRows1) (hrk : r.hits x.key = true) :
    (∀ p ∈ r.holes, ¬ (p.1 ≤ x.key.toNat ∧ x.key.toNat < p.2)) ↔ (r.build x).WF := by
  have hwf : (r.build x).wf = defaultReserved (x.index 10) := by
    revert r; simp [keyRows1, Instr.wf]
  obtain ⟨hmap, hinside⟩ := defaultRow_holes r hr
  obtain ⟨hrow, hbase⟩ := defaultRow_range r hr
  have hkey : x.key.toNat = x.off.toNat + r.pattern.toNat := by
    have hoff := x.off.isLt
    have hrange := (r.hits_iff_range (List.mem_append_right _ hr) _).1 hrk
    rw [hrow, x.key_toNat] at hrange
    rw [x.key_toNat]
    cases hW : x.W <;> simp only [hW, Bool.toNat_false, Bool.toNat_true] at hrange ⊢ <;> omega
  rw [Instr.WF, hwf, ← not_mapped_iff_defaultReserved, hkey]
  constructor
  · exact fun h p hp hin => h _ (hmap p hp) ⟨by simpa using hin.1, by simpa using hin.2⟩
  · intro h p hp hin
    obtain ⟨q, hq, hlo, hhi⟩ := hinside p hp
    exact h q hq ⟨by omega, by omega⟩

/-- The rows of ranges that hold words of other rows: the ranges and their holes, the reserved word at the end of the
range (R72) and the read-only words at its start (R74). -/
theorem wideRows_holes : (keyRows5 ++ keyRows3).map (fun r => (r.range, r.holes)) =
    [((0x0D00, 0x0E00), []), ((0x0C00, 0x0D00), []), ((0x0E00, 0x0F00), []),
     ((0x1D00, 0x1E00), []), ((0x1C00, 0x1D00), [(0x1C00, 0x1C08)]), ((0x1E00, 0x1F00), []),
     ((0x0400, 0x0800), [(0x07FC, 0x0800)]), ((0x0800, 0x0C00), [(0x0BFC, 0x0C00)]),
     ((0x1400, 0x1800), [(0x17FC, 0x1800)]), ((0x1800, 0x1C00), [(0x1BFC, 0x1C00), (0x1800, 0x1820)])] := by
  decide

/-- The index operands those rows allow are those of the keys outside the holes: both are intervals of the key. -/
theorem wideRow_holes_iff (x : Access) : ∀ r ∈ keyRows5 ++ keyRows3,
    r.range.1 ≤ x.key.toNat ∧ x.key.toNat < r.range.2 →
    ((∀ p ∈ r.holes, ¬ (p.1 ≤ x.key.toNat ∧ x.key.toNat < p.2)) ↔ (r.build x).WF) := by
  have hindex8 := x.index_toNat (k := 8) (by decide)
  have hindex6 := x.index_toNat (k := 6) (by decide)
  have hholes := wideRows_holes
  simp only [keyRows5, keyRows3, List.cons_append, List.nil_append, List.map_cons, List.map_nil, List.cons.injEq,
    Prod.mk.injEq, and_true] at hholes
  simp only [keyRows5, keyRows3, List.cons_append, List.nil_append, List.forall_mem_cons, hholes, List.not_mem_nil,
    false_imp_iff, implies_true, and_true, Instr.WF, Instr.wf, Bool.and_eq_true, decide_eq_true_eq, bne_iff_ne, ne_eq,
    ← BitVec.toNat_inj, BitVec.le_def, hindex8, hindex6, BitVec.toNat_ofNat, true_and]
  omega

/-- A row that matches is the one selected exactly when the instruction it builds is well formed. -/
theorem selectRow_eq_some_iff_wf {x : Access} {r : KeyRow} (hr : r ∈ keyRows) (hrk : r.hits x.key = true) :
    selectRow x.key = some r ↔ (r.build x).WF := by
  rw [selectRow_eq_some_iff_holes hr hrk]
  have hsplit : r ∈ keyRowsFrom8 ++ keyRows6 ∨ r ∈ keyRows5 ++ keyRows3 ∨ r ∈ keyRows1 := by
    simpa only [keyRows, keyRowsFrom8, List.mem_append, or_assoc] using hr
  rcases hsplit with hplain | hwide | hdefault
  · obtain ⟨hnil, hwf⟩ := plainRows_holes_wf x r hplain
    exact iff_of_true (by simp [hnil]) hwf
  · exact wideRow_holes_iff x r hwide ((r.hits_iff_range hr _).1 hrk)
  · exact defaultRow_holes_iff hdefault hrk

/-- Settles O2: the decoder builds the instruction of the row it selects. -/
theorem decodedIsWellFormed : Obligations.DecodedIsWellFormed := by
  intro bs i h
  obtain ⟨x, rfl⟩ := decode_ok h
  obtain ⟨r, hsel⟩ := selectRow_isSome x.key
  obtain ⟨hr, hrk, -⟩ := selectRow_spec hsel
  rw [decodeAccess_of_selectRow hsel]
  exact (selectRow_eq_some_iff_wf hr hrk).1 hsel

/-- The row of a well-formed instruction decodes its access to it. -/
theorem decodeAccess_of_build {x : Access} {r : KeyRow} {i : Instr} (hr : r ∈ keyRows) (hrk : r.hits x.key = true)
    (hb : r.build x = i) (hwf : i.WF) : decodeAccess x = i := by
  subst hb
  exact decodeAccess_of_selectRow ((selectRow_eq_some_iff_wf hr hrk).2 hwf)

end Sys2Proof

namespace Sys2Proof

/-! ## The bytes of an access tuple (R70, log 6) -/

theorem Size.ofCode_code (sz : Size) : Size.ofCode sz.code = sz := by cases sz <;> rfl

theorem Size.code_ofCode : ∀ c : BitVec 2, (Size.ofCode c).code = c := by decide

/-- A flag stands in one bit above a field, and the bits above it are clear. -/
theorem flag_append_fields {k m : Nat} (b : Bool) (lo : BitVec m) :
    ((BitVec.ofBool b).setWidth (k + 1) ++ lo).extractLsb' (m + 1) k = 0#k ∧
    ((BitVec.ofBool b).setWidth (k + 1) ++ lo).getLsbD m = b := by
  constructor
  · refine BitVec.eq_of_getLsbD_eq fun i hi => ?_
    have hi' : ¬ m + 1 + i < m := by omega
    simp [BitVec.getLsbD_extractLsb', BitVec.getLsbD_append, BitVec.getLsbD_ofBool, hi',
      show m + 1 + i - m ≠ 0 by omega]
  · rw [BitVec.getLsbD_append, if_neg (lt_irrefl m), Nat.sub_self]; simp

/-- A field with clear bits above a flag is made of the flag and what is below it. -/
theorem eq_flag_append {k m : Nat} {x : BitVec (k + 1 + m)} (h : x.extractLsb' (m + 1) k = 0#k) :
    (BitVec.ofBool (x.getLsbD m)).setWidth (k + 1) ++ x.extractLsb' 0 m = x := by
  refine BitVec.eq_of_getLsbD_eq fun i hi => ?_
  rw [BitVec.getLsbD_append]
  by_cases him : i < m
  · simp [him]
  · by_cases hieq : i = m
    · subst hieq; simp
    · have hbit := congrArg (fun y => y.getLsbD (i - (m + 1))) h
      simp only [BitVec.getLsbD_extractLsb', BitVec.getLsbD_zero, show i - (m + 1) < k by omega,
        show m + 1 + (i - (m + 1)) = i by omega, decide_true, Bool.true_and] at hbit
      simp [him, hbit, BitVec.getLsbD_ofBool, show i - m ≠ 0 by omega]

/-- The bytes of a value, low byte first (20_memory.md R53). -/
theorem word_eq_append_iff {x : Word} {b3 b2 b1 b0 : Byte} :
    x = b3 ++ b2 ++ b1 ++ b0 ↔
      x.extractLsb' 0 8 = b0 ∧ x.extractLsb' 8 8 = b1 ∧ x.extractLsb' 16 8 = b2 ∧ x.extractLsb' 24 8 = b3 := by
  have h := Machine.pack_lane #v[b0, b1, b2, b3] 0
  constructor
  · rintro rfl
    exact ⟨h 0 (by decide), h 1 (by decide), h 2 (by decide), h 3 (by decide)⟩
  · rintro ⟨h0, h1, h2, h3⟩
    exact Machine.eq_of_lanes fun
      | 0, hk => h0.trans (h 0 hk).symm
      | 1, hk => h1.trans (h 1 hk).symm
      | 2, hk => h2.trans (h 2 hk).symm
      | 3, hk => h3.trans (h 3 hk).symm

theorem Access.ofBytes_toBytes (x : Access) : Access.ofBytes x.toBytes = .ok x := by
  obtain ⟨v, W, off, sz, sg, val⟩ := x
  obtain ⟨hframe, hW⟩ := flag_append_fields (k := 3) W (off.extractLsb' 8 4)
  obtain ⟨hreserved, hsg⟩ := flag_append_fields (k := 5) sg sz.code
  have hoff : off.extractLsb' 8 4 ++ off.extractLsb' 0 8 = off :=
    (BitVec.extractLsb'_append_extractLsb'_eq_extractLsb' (by rfl)).trans BitVec.extractLsb'_eq_self
  have hval := (word_eq_append_iff (x := val)).2 ⟨rfl, rfl, rfl, rfl⟩
  simp only [Access.toBytes, Access.ofBytes]
  rw [if_neg (not_not.2 hframe), if_neg (not_not.2 hreserved), hW, hsg, ← hval, BitVec.extractLsb'_append_eq_right,
    BitVec.extractLsb'_append_eq_right, hoff, Size.ofCode_code]

theorem Access.toBytes_of_ofBytes {bs : List Byte} {x : Access} (h : Access.ofBytes bs = .ok x) : bs = x.toBytes := by
  match bs, h with
  | [b0, b1, b2, b3, b4, b5, b6, b7], h =>
    simp only [Access.ofBytes] at h
    split at h
    · cases h
    next hframe =>
    split at h
    · cases h
    next hreserved =>
    cases h
    obtain ⟨-, h1, h2, h3⟩ := (word_eq_append_iff (x := b7 ++ b6 ++ b5 ++ b4)).1 rfl
    simp only [Access.toBytes, Size.code_ofCode, BitVec.extractLsb'_append_eq_right,
      BitVec.extractLsb'_append_eq_left, eq_flag_append (k := 3) (m := 4) (not_not.1 hframe),
      eq_flag_append (k := 5) (m := 2) (not_not.1 hreserved)]
    rw [h1, h2, h3]

theorem decode_toBytes (x : Access) : decode x.toBytes = .ok (decodeAccess x) := by
  simp only [decode, x.ofBytes_toBytes]

/-- Settles O3: the bytes of a tuple and the tuple of bytes determine each other. -/
theorem decoderAnswersExactlyTuples : Obligations.DecoderAnswersExactlyTuples := by
  intro bs i
  constructor
  · intro h
    simp only [decode] at h
    split at h
    next x hx => exact ⟨x, Access.toBytes_of_ofBytes hx, (Except.ok.inj h).symm⟩
    next => cases h
  · rintro ⟨x, rfl, rfl⟩
    exact decode_toBytes x

end Sys2Proof

namespace Sys2Proof

/-! ## The access tuple of an instruction (R72, R79)

### Offsets, and the row of a range -/

/-- The fields of an offset do not overlap, so they add up (R72). -/
theorem frameOffset_toNat {k f : Nat} {base : BitVec 12} {n : BitVec k} (lane : BitVec 2)
    (hbase : base.toNat % 2 ^ (f + 2) = 0) (hn : n.toNat < 2 ^ f) (hf : f ≤ 10) :
    (frameOffset base n lane).toNat = base.toNat + (4 * n.toNat + lane.toNat) := by
  have hlane : lane.toNat < 2 ^ 2 := lane.isLt
  have hle : 2 ^ f ≤ 2 ^ 10 := Nat.pow_le_pow_right (by decide) hf
  have hshift : (n.setWidth 12 <<< 2).toNat = 2 ^ 2 * n.toNat := by
    rw [BitVec.toNat_shiftLeft, BitVec.toNat_setWidth, Nat.shiftLeft_eq]; omega
  have hlow : 2 ^ 2 * n.toNat + lane.toNat < 2 ^ (f + 2) := by rw [pow_add]; omega
  obtain ⟨c, hc⟩ := Nat.dvd_of_mod_eq_zero hbase
  rw [frameOffset, BitVec.toNat_or, BitVec.toNat_or, hshift, BitVec.toNat_setWidth,
    Nat.mod_eq_of_lt (show lane.toNat < 2 ^ 12 by omega), Nat.or_assoc, ← Nat.two_pow_add_eq_or_of_lt hlane, hc,
    ← Nat.two_pow_add_eq_or_of_lt hlow]
  omega

/-- The index of an offset is the one it was built with. -/
theorem index_frameOffset {k : Nat} {base : BitVec 12} {n : BitVec k} {lane : BitVec 2} {x : Access}
    (hx : x.off = frameOffset base n lane) (hbase : base.toNat % 2 ^ (k + 2) = 0) (hk : k ≤ 10) : x.index k = n := by
  have hlane : lane.toNat < 2 ^ 2 := lane.isLt
  obtain ⟨c, hc⟩ := Nat.dvd_of_mod_eq_zero hbase
  have hoff : x.off.toNat = 2 ^ 2 * (n.toNat + 2 ^ k * c) + lane.toNat := by
    rw [hx, frameOffset_toNat lane hbase n.isLt hk, hc]; ring
  apply BitVec.eq_of_toNat_eq
  rw [Access.index, BitVec.extractLsb'_toNat, Nat.shiftRight_eq_div_pow, hoff, Nat.mul_add_div (by decide),
    Nat.div_eq_of_lt hlane, Nat.add_zero, Nat.add_mul_mod_self_left, Nat.mod_eq_of_lt n.isLt]

/-- The row of the range that begins at `base` and has `2 ^ f` words (R72). -/
def rangeRow (f : Nat) (W : Bool) (base : BitVec 12) : Option KeyRow :=
  keyRows.find? (fun r => r.freeBits == f + 2 && r.pattern == BitVec.ofBool W ++ base)

/-- What `rangeRow` finds is a row of the table, and its base leaves room for the index. -/
theorem rangeRow_eq_some {f : Nat} {W : Bool} {base : BitVec 12} {r : KeyRow} (h : rangeRow f W base = some r) :
    r ∈ keyRows ∧ r.freeBits = f + 2 ∧ r.pattern = BitVec.ofBool W ++ base ∧ f ≤ 10 ∧
      base.toNat % 2 ^ (f + 2) = 0 := by
  have hr : r ∈ keyRows := List.mem_of_find?_eq_some h
  have hfound := List.find?_some (p := fun r : KeyRow => r.freeBits == f + 2 && r.pattern == BitVec.ofBool W ++ base) h
  obtain ⟨hfree, hpat⟩ : r.freeBits = f + 2 ∧ r.pattern = BitVec.ofBool W ++ base := by simpa using hfound
  obtain ⟨-, hle, -, hclear⟩ := keyRows_leadingBits r hr
  rw [hfree] at hle
  obtain ⟨c, hc⟩ : 2 ^ (f + 2) ∣ 2 ^ 12 := Nat.pow_dvd_pow 2 hle
  rw [hfree, hpat, toNat_append_eq_add, Nat.mul_comm, hc, Nat.mul_assoc, Nat.mul_add_mod] at hclear
  exact ⟨hr, hfree, hpat, by omega, hclear⟩

/-- A well-formed instruction that the row of its range builds is what its access decodes to. -/
theorem decodeAccess_of_rangeRow {f k : Nat} {base : BitVec 12} {n : BitVec k} {lane : BitVec 2} {x : Access}
    {r : KeyRow} {i : Instr} (hrow : rangeRow f x.W base = some r) (hoff : x.off = frameOffset base n lane)
    (hn : n.toNat < 2 ^ f) (hb : r.build x = i) (hwf : i.WF) : decodeAccess x = i := by
  obtain ⟨hr, hfree, hpat, hf, hbase⟩ := rangeRow_eq_some hrow
  refine decodeAccess_of_build hr ((r.hits_iff_range hr _).2 ?_) hb hwf
  have hlane := lane.isLt
  rw [KeyRow.range, hfree, hpat, toNat_append_eq_add, BitVec.toNat_ofBool, x.key_toNat, hoff,
    frameOffset_toNat lane hbase hn hf, pow_add]
  constructor <;> omega

end Sys2Proof

namespace Sys2Proof

theorem readArgs_access {k : Nat} {base : BitVec 12} {n : BitVec k} (a : ReadArgs)
    (h : base.extractLsb' 0 2 = 0#2) : (a.access (frameOffset base n a.lane)).readArgs = a := by
  simp only [Access.readArgs, ReadArgs.access, frameOffset_lane base n a.lane h]

theorem writeArgs_access {k : Nat} {base : BitVec 12} {n : BitVec k} (a : WriteArgs)
    (h : base.extractLsb' 0 2 = 0#2) : (a.access (frameOffset base n a.lane)).writeArgs = a := by
  simp only [Access.writeArgs, WriteArgs.access, frameOffset_lane base n a.lane h]

/-- The access of a word of a range decodes to the row of the range, with the index and the operands it was built
from. -/
theorem decodeAccess_indexed {k : Nat} {W : Bool} {base : BitVec 12} {n : BitVec k} {lane : BitVec 2} {x : Access}
    {α : Type} {mk : BitVec k → α → Instr} {args : Access → α} {a : α} (hW : x.W = W)
    (hoff : x.off = frameOffset base n lane)
    (hrow : (rangeRow k W base).map KeyRow.build = some (fun x => mk (x.index k) (args x))) (ha : args x = a)
    (hwf : (mk n a).WF) : decodeAccess x = mk n a := by
  subst hW
  obtain ⟨r, hr, hb⟩ := Option.map_eq_some_iff.1 hrow
  obtain ⟨-, -, -, hk, hbase⟩ := rangeRow_eq_some hr
  refine decodeAccess_of_rangeRow hr hoff n.isLt ?_ hwf
  simp only [hb, index_frameOffset hoff hbase hk, ha]

/-- The access of a register of one word decodes to its row. -/
theorem decodeAccess_single {W : Bool} {base : BitVec 12} {lane : BitVec 2} {x : Access} {α : Type}
    {mk : α → Instr} {args : Access → α} {a : α} (hW : x.W = W) (hoff : x.off = frameOffset base 0#1 lane)
    (hrow : (rangeRow 0 W base).map KeyRow.build = some (fun x => mk (args x))) (ha : args x = a)
    (hwf : (mk a).WF) : decodeAccess x = mk a := by
  subst hW
  obtain ⟨r, hr, hb⟩ := Option.map_eq_some_iff.1 hrow
  refine decodeAccess_of_rangeRow hr hoff Nat.one_pos ?_ hwf
  simp only [hb, ha]

/-! ### SGI writes (R78, R79) -/

/-- A write to 0xF00 decodes by its width and value (R79). -/
theorem decodeAccess_sgir {x : Access} (hW : x.W = true) {lane : BitVec 2}
    (hoff : x.off = frameOffset 0xF00#12 0#1 lane) : decodeAccess x = decodeSgir x := by
  have hrow : rangeRow 0 x.W 0xF00#12 = some ⟨0x1FFC#13, 0x1F00#13, decodeSgir⟩ := by rw [hW]; rfl
  exact decodeAccess_of_rangeRow hrow hoff Nat.one_pos rfl (decodeSgir_wf x)

/-- An access to 0xF00 that is no aligned word is WR.SGIR itself (log 8). -/
theorem decodeSgir_of_not_alignedWord {x : Access} (h : ¬ x.writeArgs.alignedWord) :
    decodeSgir x = .wrSgir x.writeArgs := if_neg h

/-- The value of an aligned word write to 0xF00 decodes to the row of its filter (R79). -/
theorem decodeAccess_sgirAccess (v : Byte) (val : Word) : decodeAccess (sgirAccess v val) =
    if val.extractLsb' 24 2 = 0#2 then .wrSgirList v (val.extractLsb' 16 8) (val.extractLsb' 0 4)
    else if val.extractLsb' 24 2 = 1#2 then .wrSgirOthers v (val.extractLsb' 0 4)
    else if val.extractLsb' 24 2 = 2#2 then .wrSgirSelf v (val.extractLsb' 0 4)
    else .wrSgirRsvd v val := by
  rw [decodeAccess_sgir rfl (lane := 0#2) rfl, decodeSgir, if_pos ⟨rfl, sgirLane v val⟩]
  rfl

/-- The fields of an SGI value (R78). -/
theorem sgirValue_fields (filter list : Byte) (id : BitVec 4) {val : Word}
    (h : val = filter ++ list ++ 0x000#12 ++ id) :
    val.extractLsb' 24 2 = filter.extractLsb' 0 2 ∧ val.extractLsb' 16 8 = list ∧ val.extractLsb' 0 4 = id := by
  subst h
  refine ⟨?_, ?_, BitVec.extractLsb'_append_eq_right⟩
  all_goals
    refine BitVec.eq_of_getLsbD_eq fun i hi => ?_
    simp only [BitVec.getLsbD_extractLsb']
    rw [BitVec.getLsbD_append, BitVec.getLsbD_append, BitVec.getLsbD_append]
  · simp (disch := omega) only [if_neg, show 24 + i - 4 - 12 - 8 = 0 + i by omega]
  · simp (disch := omega) only [if_neg, show 16 + i - 4 - 12 = i by omega, hi, decide_true, Bool.true_and,
      if_true]

/-! ### Every row -/

/-- The access of a well-formed instruction decodes to it (R70 to R79). -/
theorem decodeAccess_access {i : Instr} (h : i.WF) : decodeAccess i.access = i := by
  cases i
  case rdRsvd7FC | rdRsvdBFC | rdCtlr | rdTyper | rdIidr | rdSgir =>
    exact decodeAccess_single (W := false) rfl rfl rfl (readArgs_access _ rfl) h
  case wrRsvd7FC | wrRsvdBFC | wrCtlr | wrTyper | wrIidr =>
    exact decodeAccess_single (W := true) rfl rfl rfl (writeArgs_access _ rfl) h
  case rdRsvd | rdImpdef | rdImpdefD00 | rdIgroupr | rdIsenabler | rdIcenabler | rdIspendr | rdIcpendr | rdIsactiver |
      rdIcactiver | rdIpriorityr | rdItargetsr | rdIcfgr | rdNsacr | rdCpendsgir | rdSpendsgir | rdPid | rdPidFE0 =>
    exact decodeAccess_indexed (W := false) rfl rfl rfl (readArgs_access _ rfl) h
  case wrSgir a =>
    have ha : (Instr.wrSgir a).access.writeArgs = a := writeArgs_access a rfl
    have hwidth : ¬ (a.sz = .word ∧ a.lane = 0#2) := by
      simpa [Instr.WF, Instr.wf, imp_iff_not_or] using h
    rw [← ha] at hwidth
    exact (decodeAccess_sgir rfl (lane := a.lane) rfl).trans
      ((decodeSgir_of_not_alignedWord hwidth).trans (congrArg Instr.wrSgir ha))
  case wrSgirList v list id =>
    obtain ⟨hfilter, hlist, hid⟩ := sgirValue_fields 0x00#8 list id rfl
    exact (decodeAccess_sgirAccess _ _).trans (by rw [hfilter, hlist, hid]; rfl)
  case wrSgirOthers v id =>
    obtain ⟨hfilter, -, hid⟩ := sgirValue_fields 0x01#8 0x00#8 id rfl
    exact (decodeAccess_sgirAccess _ _).trans (by rw [hfilter, hid]; rfl)
  case wrSgirSelf v id =>
    obtain ⟨hfilter, -, hid⟩ := sgirValue_fields 0x02#8 0x00#8 id rfl
    exact (decodeAccess_sgirAccess _ _).trans (by rw [hfilter, hid]; rfl)
  case wrSgirRsvd v val =>
    have hfilter : val.extractLsb' 24 2 = 3#2 := by simpa [Instr.WF, Instr.wf] using h
    exact (decodeAccess_sgirAccess _ _).trans (by rw [hfilter]; rfl)
  all_goals exact decodeAccess_indexed (W := true) rfl rfl rfl (writeArgs_access _ rfl) h

theorem decode_encode {i : Instr} (h : i.WF) : decode (encode i) = .ok i := by
  rw [encode, decode_toBytes, decodeAccess_access h]

/-- Settles O1: the access of an instruction lies in the range of its row, whose fields give the operands back. -/
theorem decodeEncodeAgree : Obligations.DecodeEncodeAgree := fun _ h => decode_encode h

end Sys2Proof

/-! ## What the key alone selects (R71) -/

namespace Sys2Proof.Machine

/-- Every SGI write is a write of SGIR, whichever row its value selects. -/
theorem decodeSgir_place (x : Access) :
    (decodeSgir x).group = .sgir ∧ (decodeSgir x).wordIndex = 0 ∧ (decodeSgir x).isRead = false := by
  simp only [decodeSgir]
  repeat' split
  all_goals exact ⟨rfl, rfl, rfl⟩

/-- What a row builds takes no more of an access for its group, word index and direction than the index operand. -/
theorem keyRows_place {x y : Access} (hindex : ∀ k ≤ 10, x.index k = y.index k) :
    ∀ r ∈ keyRows, (r.build x).group = (r.build y).group ∧ (r.build x).wordIndex = (r.build y).wordIndex ∧
      (r.build x).isRead = (r.build y).isRead := by
  obtain ⟨hgx, hnx, hrx⟩ := decodeSgir_place x
  obtain ⟨hgy, hny, hry⟩ := decodeSgir_place y
  simp only [keyRows, keyRows11, keyRows10, keyRows9, keyRows8, keyRows6, keyRows5, keyRows3, keyRows1,
    List.forall_mem_append, List.forall_mem_cons, hgx, hgy, hnx, hny, hrx, hry,
    hindex 1 (by decide), hindex 2 (by decide), hindex 3 (by decide), hindex 5 (by decide), hindex 6 (by decide),
    hindex 8 (by decide)]
  simp [Instr.group, Instr.wordIndex, Instr.isRead]

/-- Settles O5: a row leaves the low two bits free, and what it builds takes no more of the key than its index. -/
theorem keyAloneSelectsGroup : Obligations.KeyAloneSelectsGroup := by
  intro x y hW hoff
  have hword : x.off.toNat / 2 ^ 2 = y.off.toNat / 2 ^ 2 := by
    have h := congrArg BitVec.toNat hoff
    have hx := x.off.isLt
    have hy := y.off.isLt
    simp only [BitVec.extractLsb'_toNat, Nat.shiftRight_eq_div_pow] at h
    omega
  have hkey : x.key.toNat / 2 ^ 2 = y.key.toNat / 2 ^ 2 := by
    rw [x.key_toNat, y.key_toNat, hW]
    omega
  have hindex : ∀ k ≤ 10, x.index k = y.index k := fun k hk =>
    BitVec.eq_of_toNat_eq (by rw [x.index_toNat hk, y.index_toNat hk]; exact congrArg (· % 2 ^ k) hkey)
  obtain ⟨r, hsel⟩ := selectRow_isSome y.key
  have hr : r ∈ keyRows := (selectRow_spec hsel).1
  have hrow : selectRow x.key = selectRow y.key :=
    List.find?_congr fun q hq => q.hits_congr hq (keyRows_leadingBits q hq).1 hkey
  rw [decodeAccess_of_selectRow hsel, decodeAccess_of_selectRow (hrow.trans hsel)]
  exact keyRows_place hindex r hr

end Sys2Proof.Machine

/-! ## Table words and pseudo-operations (R78, R79, R88)

Each pseudo-operation is the access of the instruction it stands for, which decodes to that instruction. -/

namespace Sys2Proof.Machine

/-- Settles O6: each of the seven words is evaluated. -/
theorem specWordsDecode : Obligations.SpecWordsDecode := by
  unfold Obligations.SpecWordsDecode
  decide

theorem decode_of_eq_access {x : Access} {i : Instr} (hx : x = i.access) (hwf : i.WF) : decode x.toBytes = .ok i :=
  hx ▸ decode_encode hwf

/-- The offset of byte `l` of word `q` of a range, as R88 writes it. -/
theorem ofNat_eq_frameOffset {k m q l : Nat} {base : BitVec 12} (hm : m = base.toNat + (4 * q + l)) (hq : q < 2 ^ k)
    (hl : l < 4) (hbase : base.toNat % 2 ^ (k + 2) = 0) (hk : k ≤ 10) :
    BitVec.ofNat 12 m = frameOffset base (BitVec.ofNat k q) (BitVec.ofNat 2 l) := by
  have hqk : (BitVec.ofNat k q).toNat = q := Nat.mod_eq_of_lt hq
  have hll : (BitVec.ofNat 2 l).toNat = l := Nat.mod_eq_of_lt hl
  have hoff := frameOffset_toNat (BitVec.ofNat 2 l) hbase (BitVec.isLt _) hk (n := BitVec.ofNat k q)
  apply BitVec.eq_of_toNat_eq
  rw [hqk, hll, ← hm] at hoff
  rw [← hoff, BitVec.ofNat_toNat, BitVec.setWidth_eq]

/-- A word write to word `q` of a range. -/
theorem wordWrite_eq {k m q : Nat} {base : BitVec 12} (v : Byte) (val : Word) (hm : m = base.toNat + 4 * q)
    (hq : q < 2 ^ k) (hbase : base.toNat % 2 ^ (k + 2) = 0) (hk : k ≤ 10) :
    wordWrite v (BitVec.ofNat 12 m) val =
      WriteArgs.access ⟨v, .word, 0#2, val⟩ (frameOffset base (BitVec.ofNat k q) 0#2) := by
  rw [ofNat_eq_frameOffset (l := 0) hm hq (by decide) hbase hk]
  rfl

/-- A byte write to byte `L` of a range. -/
theorem byteWrite_eq {k m L : Nat} {base : BitVec 12} (v : Byte) (val : Word) (hm : m = base.toNat + L)
    (hL : L < 4 * 2 ^ k) (hbase : base.toNat % 2 ^ (k + 2) = 0) (hk : k ≤ 10) :
    byteWrite v (BitVec.ofNat 12 m) val =
      WriteArgs.access ⟨v, .byte, BitVec.ofNat 2 (L % 4), val⟩
        (frameOffset base (BitVec.ofNat k (L / 4)) (BitVec.ofNat 2 (L % 4))) := by
  rw [ofNat_eq_frameOffset (q := L / 4) (l := L % 4) (by omega) (by omega) (Nat.mod_lt _ (by decide)) hbase hk]
  rfl

/-- The value of an SGI write as R88 writes it: the line id added to the fields above it (R78). -/
theorem add_eq_sgirValue {above : Word} {filter list : Byte} (id : BitVec 4)
    (h : above.toNat = filter.toNat * 2 ^ 24 + list.toNat * 2 ^ 16) :
    above + id.setWidth 32 = filter ++ list ++ 0x000#12 ++ id := by
  have hfilter := filter.isLt
  have hlist := list.isLt
  have hid := id.isLt
  have hvalue : BitVec.toNat (w := 8 + 8 + 12 + 4) (filter ++ list ++ 0x000#12 ++ id) =
      filter.toNat * 2 ^ 24 + list.toNat * 2 ^ 16 + id.toNat := by
    rw [toNat_append_eq_add, toNat_append_eq_add, toNat_append_eq_add, BitVec.toNat_ofNat]
    omega
  refine BitVec.eq_of_toNat_eq (Eq.trans ?_ hvalue.symm)
  rw [BitVec.toNat_add, BitVec.toNat_setWidth, h]
  omega

theorem decode_sgirAccess {v : Byte} {val val' : Word} {i : Instr} (hval : val = val')
    (hi : i.access = sgirAccess v val') (hwf : i.WF) : decode (wordWrite v 0xF00#12 val).toBytes = .ok i :=
  decode_of_eq_access (hval ▸ hi.symm) hwf

/-- Settles O7: each pseudo-operation is the access of a well-formed instruction. -/
theorem pseudoOperationsExpand : Obligations.PseudoOperationsExpand := by
  refine ⟨fun v L hL => ⟨?enable, ?disable⟩, fun v p L hL => ⟨?prio, fun h32 => ?target, fun h32 => ?targetRo⟩,
    fun v n x => ⟨fun h2 h64 => ?cfg, fun h2 => ?cfgRo⟩, fun v m i => ⟨?list, ?others, ?self⟩⟩
  case enable => exact decode_of_eq_access (wordWrite_eq v _ rfl (by omega) (by decide) (by decide)) rfl
  case disable => exact decode_of_eq_access (wordWrite_eq v _ rfl (by omega) (by decide) (by decide)) rfl
  case prio =>
    refine decode_of_eq_access (byteWrite_eq v _ rfl (by omega) (by decide) (by decide)) ?_
    simp only [Instr.WF, Instr.wf, bne_iff_ne, ne_eq, ← BitVec.toNat_inj, BitVec.toNat_ofNat]
    omega
  case target =>
    refine decode_of_eq_access (byteWrite_eq v _ rfl (by omega) (by decide) (by decide)) ?_
    simp only [Instr.WF, Instr.wf, Bool.and_eq_true, decide_eq_true_eq, bne_iff_ne, ne_eq, ← BitVec.toNat_inj,
      BitVec.le_def, BitVec.toNat_ofNat]
    omega
  case targetRo => exact decode_of_eq_access (byteWrite_eq v _ rfl (by omega) (by decide) (by decide)) rfl
  case cfg =>
    refine decode_of_eq_access (wordWrite_eq v _ rfl (by omega) (by decide) (by decide)) ?_
    simp only [Instr.WF, Instr.wf, decide_eq_true_eq, BitVec.le_def, BitVec.toNat_ofNat]
    omega
  case cfgRo => exact decode_of_eq_access (wordWrite_eq v _ rfl (by omega) (by decide) (by decide)) rfl
  case list =>
    refine decode_sgirAccess (add_eq_sgirValue (filter := 0x00#8) (list := m) i ?_) rfl rfl
    have hm := m.isLt
    simp only [BitVec.toNat_shiftLeft, BitVec.toNat_setWidth, BitVec.toNat_ofNat, Nat.shiftLeft_eq]
    omega
  case others => exact decode_sgirAccess (add_eq_sgirValue (filter := 0x01#8) (list := 0x00#8) i rfl) rfl rfl
  case self => exact decode_sgirAccess (add_eq_sgirValue (filter := 0x02#8) (list := 0x00#8) i rfl) rfl rfl

end Sys2Proof.Machine

/-! ## Reading TYPER and writing SGIR -/

namespace Sys2Proof.Machine

/-- A group that allows no bytes allows aligned words only (41_mmio_dispatch.md R123). -/
theorem widthAllowed_iff_of_word {g : Group} (hg : g.allowsBytes = false) (sz : Size) (l : BitVec 2) :
    g.WidthAllowed sz l ↔ sz = .word ∧ l = 0#2 := by
  rw [← widthOk_iff]; simp [widthOk, hg]

/-! ### RD.TYPER (R76) -/

/-- The two counts stand in separate fields of TYPER (R76), which the parameter ranges of R7 do not exceed. -/
theorem typer_fields {c : Config} (hc : c.valid = true) :
    (c.typer.extractLsb' 0 5).toNat = c.nsr ∧ (c.typer.extractLsb' 5 3).toNat + 1 = c.nvcpu ∧
      c.typer.extractLsb' 8 24 = 0#24 := by
  obtain ⟨hspi, hpos, hle⟩ : c.nrSpi ≤ 988 ∧ 1 ≤ c.nvcpu ∧ c.nvcpu ≤ 8 := by
    simp only [Config.valid, Bool.and_eq_true, decide_eq_true_eq] at hc
    tauto
  have hnsr : c.nsr < 2 ^ 5 := by rw [Config.nsr]; omega
  have htyper : c.typer.toNat = (c.nvcpu - 1) * 2 ^ 5 + c.nsr := by
    rw [Config.typer, BitVec.toNat_ofNat, ← Nat.shiftLeft_add_eq_or_of_lt hnsr, Nat.shiftLeft_eq]
    omega
  refine ⟨?_, ?_, BitVec.eq_of_toNat_eq ?_⟩ <;>
    rw [BitVec.extractLsb'_toNat, Nat.shiftRight_eq_div_pow, htyper]
  · omega
  · omega
  · rw [BitVec.toNat_ofNat]; omega

/-- Settles O16: dispatch lets an aligned word through, which reads the word of the two counts. -/
theorem typerReadsCounts : Obligations.TyperReadsCounts := by
  intro a s hready hvalid
  have hpresent : s.Present .typer 0 := by rintro b ⟨⟩
  have hwidth := widthAllowed_iff_of_word (g := .typer) rfl a.sz a.lane
  exact ⟨fun hw => ⟨s.cfg.typer, exec_of_ok hready hpresent (hwidth.2 hw), typer_fields hvalid⟩,
    fun hw => exec_of_width hready hpresent (mt hwidth.1 hw)⟩

/-! ### WR.SGIR by its filter (R79, R85) -/

/-- The bits of an SGI value the filter does not use select nothing: the general term and the row decoded do the same
(R79, R85, log 21). -/
theorem exec_wrSgir_eq (v : Byte) (val : Word) (s : State) :
    exec (.wrSgir ⟨v, .word, 0#2, val⟩) s = exec (decodeAccess (sgirAccess v val)) s := by
  rw [decodeAccess_sgirAccess, exec_eq_access]
  simp only [performed, dispatchSgi]
  repeat' split
  all_goals rw [exec_eq_access]; rfl

/-- An aligned word write to SGIR completes, whatever its value (R136). -/
theorem wrSgir_completes {v : Byte} {val : Word} {s : State} (hready : s.Ready v.toNat) :
    ∃ t, exec (.wrSgir ⟨v, .word, 0#2, val⟩) s = .next t ∧ t.terminated = false := by
  refine ⟨_, exec_of_ok hready (by rintro b ⟨⟩) (.inl ⟨rfl, rfl⟩), ?_⟩
  rw [performed_frame]
  obtain ⟨-, hterminated, -⟩ := hready
  exact hterminated

/-- A write to 0xF00 that is no aligned word decodes to WR.SGIR. -/
theorem decodeAccess_of_not_alignedWord {x : Access} (hW : x.W = true) (hword : x.off.extractLsb' 2 10 = 0x3C0#10)
    (hwidth : ¬ x.writeArgs.alignedWord) : decodeAccess x = .wrSgir x.writeArgs := by
  have hoff : x.off = frameOffset 0xF00#12 0#1 (x.off.extractLsb' 0 2) := by
    apply BitVec.eq_of_toNat_eq
    have h := congrArg BitVec.toNat hword
    have hlt := x.off.isLt
    rw [BitVec.extractLsb'_toNat, Nat.shiftRight_eq_div_pow] at h
    rw [frameOffset_toNat (f := 0) _ (by decide) (by decide) (by decide), BitVec.extractLsb'_toNat,
      Nat.shiftRight_zero]
    simp only [BitVec.toNat_ofNat] at h ⊢
    omega
  rw [decodeAccess_sgir hW hoff, decodeSgir_of_not_alignedWord hwidth]

/-- Settles O31: the decoded row has the meaning of the general term, and dispatch lets a word through and no other
width. -/
theorem sgirWriteByFilter : Obligations.SgirWriteByFilter := by
  refine ⟨fun v val => ⟨_, decode_toBytes (sgirAccess v val), ?_⟩, fun x s hW hword hwidth => ⟨?_, fun hready => ?_⟩⟩
  · refine ⟨?_, ?_, ?_, ?_, fun s => ⟨exec_wrSgir_eq v val s, fun hready => ?_⟩⟩
    case refine_5 => exact exec_wrSgir_eq v val s ▸ wrSgir_completes hready
    all_goals
      intro hfilter
      rw [decodeAccess_sgirAccess, hfilter]
      rfl
  · rw [decode_toBytes, decodeAccess_of_not_alignedWord hW hword hwidth]
  · exact exec_of_width hready (by rintro b ⟨⟩) (mt (widthAllowed_iff_of_word rfl _ _).1 hwidth)

end Sys2Proof.Machine

/-! # The dispatch of an access and the terminated domain (41_mmio_dispatch.md)

The step at a presented access, the registers dispatch alone decides, the accesses that are not emulated, and what is
left of a terminated domain. -/

/-! ## A step at a presented access -/

namespace Sys2Proof.Machine

section

variable {s : State} {bs : List Byte} {rest : List Input} {i : Instr}

theorem State.popInput_of_cons {x : Input} (hinputs : s.inputs = x :: rest) :
    s.popInput = { s with inputs := rest } := by
  rw [State.popInput, hinputs, List.tail_cons]

/-- No access of `v` is in progress exactly when no operation in progress has it as accessor (R261). -/
theorem State.busyTask_eq_none_iff (s : State) (v : Nat) :
    s.busyTask v = none ↔ ∀ x ∈ s.tasks, x.accessor ≠ some v := by
  simp [State.busyTask, Task.isAccessOf]

/-- The access of `v` in progress is the oldest operation that has it as accessor. -/
theorem State.busyTask_eq_some {v k : Nat} {x : Task} (hx : s.tasks[k]? = some x) (hv : x.accessor = some v)
    (hfirst : ∀ j < k, ∀ y, s.tasks[j]? = some y → y.accessor ≠ some v) : s.busyTask v = some k := by
  obtain ⟨hk, rfl⟩ := List.getElem?_eq_some_iff.1 hx
  rw [State.busyTask, List.findIdx?_eq_some_iff_getElem]
  refine ⟨hk, by simp [Task.isAccessOf, hv], fun j hj => ?_⟩
  simpa [Task.isAccessOf] using hfirst j hj _ (List.getElem?_eq_getElem (hj.trans hk))

/-- An access whose vCPU has none in progress is decoded and makes its first atomic step. -/
theorem step_of_access (hinputs : s.inputs = .access bs :: rest) (hdecode : decode bs = .ok i)
    (hfree : s.busyTask i.accessor.toNat = none) :
    step s = settle { s with inputs := rest } (exec i { s with inputs := rest }) := by
  rw [← State.popInput_of_cons hinputs]
  simp only [step, hinputs, hdecode, hfree]

/-- An access whose vCPU has one in progress waits while that one advances (R261). -/
theorem step_of_access_busy (hinputs : s.inputs = .access bs :: rest) (hdecode : decode bs = .ok i) {k : Nat}
    (hbusy : s.busyTask i.accessor.toNat = some k) : step s = advance k s := by
  simp only [step, hinputs, hdecode, hbusy]

end

/-- Settles O9: whether the accessor has an access in progress decides between the two forms of the step. -/
theorem stepRunsDecodedInstruction : Obligations.StepRunsDecodedInstruction := by
  intro s bs rest i hinputs hdecode
  refine ⟨fun hfree => ?_, fun k x hx hv hfirst =>
    step_of_access_busy hinputs hdecode (State.busyTask_eq_some hx hv hfirst)⟩
  rw [step_of_access hinputs hdecode ((s.busyTask_eq_none_iff _).2 hfree)]
  exact ⟨fun t h => by rw [h]; rfl, fun c h => by rw [h]; rfl⟩

end Sys2Proof.Machine

/-! ## Registers of aligned words without lines (R127, R128, R130, R135) -/

namespace Sys2Proof.Machine

/-- A group that is not per-line has no absent rank (40_rank_store.md R100). -/
theorem State.present_of_not_perLine (s : State) {g : Group} (hg : g.bitsPerLine = none) (n : Nat) :
    s.Present g n := by
  intro b hb
  rw [hg] at hb
  cases hb

section

variable {i : Instr} {s : State} (hr : s.Ready i.accessor.toNat) (hline : i.group.bitsPerLine = none)
  (hbytes : i.group.allowsBytes = false)

include hr hline hbytes

theorem exec_of_alignedWord (hw : i.size = .word ∧ i.byteLane = 0#2) : exec i s = .next (performed i s) :=
  exec_of_ok hr (s.present_of_not_perLine hline _) ((widthAllowed_iff_of_word hbytes _ _).2 hw)

theorem exec_of_not_alignedWord (hw : ¬ (i.size = .word ∧ i.byteLane = 0#2)) :
    exec i s = .next (s.fatal i.accessor.toNat) :=
  exec_of_width hr (s.present_of_not_perLine hline _) (mt (widthAllowed_iff_of_word hbytes _ _).1 hw)

end

/-- Settles O15: an aligned word reads the register, any other width is Fatal. -/
theorem controlAndIdentificationReads : Obligations.ControlAndIdentificationReads := by
  intro a s hr
  refine ⟨fun hw => ⟨exec_of_alignedWord hr rfl rfl hw, exec_of_alignedWord hr rfl rfl hw⟩, fun hw i hi => ?_⟩
  simp only [List.mem_cons, List.not_mem_nil, or_false] at hi
  rcases hi with rfl | rfl
  · exact exec_of_not_alignedWord hr rfl rfl hw
  · exact exec_of_not_alignedWord hr rfl rfl hw

/-- Settles O18: an aligned word draws the next free value, any other width is Fatal. -/
theorem sgirReadIsFree : Obligations.SgirReadIsFree := fun _ _ hr =>
  ⟨fun hw => exec_of_alignedWord hr rfl rfl hw, fun hw => exec_of_not_alignedWord hr rfl rfl hw⟩

theorem extractLsb'_zero_one {w : Nat} (x : BitVec w) : x.extractLsb' 0 1 = BitVec.ofBool (x.getLsbD 0) := by
  refine BitVec.eq_of_getLsbD_eq fun i hi => ?_
  obtain rfl : i = 0 := by omega
  simp

/-- Settles O23: an aligned word stores the low bit of its value, any other width is Fatal. -/
theorem ctlrWriteKeepsBitZero : Obligations.CtlrWriteKeepsBitZero := by
  intro a s hr
  refine ⟨fun hw => ?_, fun hw => exec_of_not_alignedWord hr rfl rfl hw⟩
  rw [← extractLsb'_zero_one]
  exact exec_of_alignedWord hr rfl rfl hw

end Sys2Proof.Machine

/-! ## Reads of zero and ignored writes (R129 to R134, R137) -/

namespace Sys2Proof.Machine

/-- The access of `v` with size `sz` and lane `l` returns `x` and does nothing else, whether dispatch lets it through or
its rank is absent. -/
structure NoEffect (i : Instr) (v : Byte) (sz : Size) (l : BitVec 2) (x : AccessResult) : Prop where
  accessor : i.accessor = v
  size : i.size = sz
  byteLane : i.byteLane = l
  benign : benignResult i = x
  performed : ∀ s, performed i s = s.reply v.toNat x

section

variable {i : Instr} {v : Byte} {sz : Size} {l : BitVec 2} {x : AccessResult} {s : State}

theorem NoEffect.exec_eq (h : NoEffect i v sz l x) (hr : s.Ready v.toNat)
    (hw : i.group.WidthAllowed sz l ∨ ¬ s.Present i.group i.wordIndex) : exec i s = .next (s.reply v.toNat x) := by
  obtain ⟨rfl, rfl, rfl, rfl, hperformed⟩ := h
  by_cases hp : s.Present i.group i.wordIndex
  · rw [exec_of_ok hr hp (hw.resolve_right (not_not_intro hp)), hperformed]
  · exact exec_of_absent hr hp

theorem NoEffect.exec_fatal (h : NoEffect i v sz l x) (hr : s.Ready v.toNat) (hw : ¬ i.group.WidthAllowed sz l)
    (hp : s.Present i.group i.wordIndex) : exec i s = .next (s.fatal v.toNat) := by
  obtain ⟨rfl, rfl, rfl, -, -⟩ := h
  exact exec_of_width hr hp hw

end

/-- The registers that read as zero have no byte lanes (R123, R131 to R134). -/
theorem zeroRead_noEffect {o : BitVec 10} {n3 : BitVec 3} {n6 : BitVec 6} {n5 : BitVec 5} {a : ReadArgs} {i : Instr}
    (hi : i ∈ [Instr.rdRsvd o a, .rdRsvd7FC a, .rdRsvdBFC a, .rdImpdef n3 a, .rdImpdefD00 n6 a, .rdIgroupr n5 a,
      .rdNsacr n6 a]) :
    NoEffect i a.v a.sz a.lane (.handledRead 0#32) ∧ i.group.allowsBytes = false := by
  simp only [List.mem_cons, List.not_mem_nil, or_false] at hi
  rcases hi with rfl | rfl | rfl | rfl | rfl | rfl | rfl <;> exact ⟨⟨rfl, rfl, rfl, rfl, fun _ => rfl⟩, rfl⟩

/-- Settles O17: the value read at a present rank is the benign value of an absent one. -/
theorem zeroRegistersReadZero : Obligations.ZeroRegistersReadZero := by
  intro o n3 n6 n5 a s i hi hr
  obtain ⟨hzero, hbytes⟩ := zeroRead_noEffect hi
  have hwidth := widthAllowed_iff_of_word hbytes a.sz a.lane
  exact ⟨fun hw => hzero.exec_eq hr (hw.imp_left hwidth.2), fun hw => hzero.exec_fatal hr (mt hwidth.1 hw)⟩

/-- The writes that are accepted with no effect (R129 to R134, R137, 42_mmio_line_registers.md R160, R165, R168). -/
theorem ignoredWrite_noEffect {o : BitVec 10} {n1 : BitVec 1} {n2 : BitVec 2} {n3 : BitVec 3} {n5 : BitVec 5}
    {n6 : BitVec 6} {a : WriteArgs} {i : Instr}
    (hi : i ∈ [Instr.wrTyper a, .wrIidr a, .wrRsvd o a, .wrRsvd7FC a, .wrRsvdBFC a, .wrImpdef n3 a, .wrImpdefD00 n6 a,
      .wrPid n2 a, .wrPidFE0 n3 a, .wrIgroupr n5 a, .wrNsacr n6 a, .wrIsactiver n5 a, .wrItargetsrRo n3 a,
      .wrIcfgrRo n1 a]) :
    NoEffect i a.v a.sz a.lane .handled := by
  simp only [List.mem_cons, List.not_mem_nil, or_false] at hi
  rcases hi with rfl | rfl | rfl | rfl | rfl | rfl | rfl | rfl | rfl | rfl | rfl | rfl | rfl | rfl <;>
    exact ⟨rfl, rfl, rfl, rfl, fun _ => rfl⟩

/-- Settles O24: what an ignored write returns at a present rank is the benign outcome of an absent one. -/
theorem ignoredWrites : Obligations.IgnoredWrites := by
  intro o n1 n2 n3 n5 n6 a s i hi hr
  exact ⟨(ignoredWrite_noEffect hi).exec_eq hr, (ignoredWrite_noEffect hi).exec_fatal hr⟩

end Sys2Proof.Machine

/-! ## The accesses that are not emulated (R125, 60_exceptions.md R303) -/

namespace Sys2Proof.Machine

/-- A group that allows bytes allows bytes and aligned words (R123). -/
theorem widthAllowed_iff_of_byte {g : Group} (hg : g.allowsBytes = true) (sz : Size) (l : BitVec 2) :
    g.WidthAllowed sz l ↔ sz = .byte ∨ (sz = .word ∧ l = 0#2) := by
  rw [← widthOk_iff]
  simp [widthOk, hg, or_comm]

/-- A list of replies tells which outcome was appended to it last. -/
theorem append_reply_inj {rs : List Reply} {v w : Nat} {x y : AccessResult} (h : rs ++ [⟨v, x⟩] = rs ++ [⟨w, y⟩]) :
    x = y := by
  have hlast : v = w ∧ x = y := by simpa using h
  exact hlast.2

/-- Beginning an operation returns `Handled` or nothing yet (R261, log 15). -/
theorem State.begin_replies_ne_unhandled (s : State) (x : Task) (v : Nat) :
    (s.begin x).replies ≠ s.replies ++ [⟨v, .unhandled⟩] := by
  rcases s.begin_cases x with ⟨-, h⟩ | ⟨-, h⟩ <;> rw [h]
  · rw [State.complete_eq]
    cases x.accessor <;> simp
  · simp

/-- Of the accesses dispatch lets through, only the writes of the pending and SGI source registers and the reads of PID
return `Unhandled` (R303). -/
theorem performed_unhandled {i : Instr} {s : State} {v : Nat}
    (h : (performed i s).replies = s.replies ++ [⟨v, .unhandled⟩]) :
    (i.isRead = false ∧ i.group ∈ [Group.ispendr, .icpendr, .cpendsgir, .spendsgir]) ∨
    (i.isRead = true ∧ i.group = .pid) := by
  have hbegin : ∀ (u : State) (x : Task), u.replies = s.replies →
      (u.begin x).replies ≠ s.replies ++ [⟨v, .unhandled⟩] := fun u x hu =>
    hu ▸ u.begin_replies_ne_unhandled x v
  cases i
  case wrIspendr | wrIcpendr | wrCpendsgir | wrSpendsgir => exact .inl ⟨rfl, by simp [Instr.group]⟩
  case rdPid | rdPidFE0 => exact .inr ⟨rfl, rfl⟩
  case wrIsenabler | wrIcenabler | wrSgirList | wrSgirOthers | wrSgirSelf => exact absurd h (hbegin _ _ rfl)
  case wrSgir a =>
    rw [performed] at h
    rcases dispatchSgi_cases a.v.toNat a.val s with ⟨m, id, e⟩ | e <;> rw [e] at h
    · exact absurd h (hbegin _ _ rfl)
    · cases append_reply_inj h
  all_goals cases append_reply_inj h

/-- Settles O11: dispatch lets the listed accesses through to their one reply, and of the outcomes of an access neither
the benign one nor Fatal is `Unhandled`. -/
theorem unhandledExactlyWhereListed : Obligations.UnhandledExactlyWhereListed := by
  refine ⟨?writes, ?reads, ?only⟩
  case writes =>
    intro n m a s i hi hr hp hw
    have hwidth : ∀ g : Group, g.allowsBytes = true → g.WidthAllowed a.sz a.lane := fun g hg =>
      (widthAllowed_iff_of_byte hg _ _).2 hw
    simp only [List.mem_cons, List.not_mem_nil, or_false] at hi
    rcases hi with rfl | rfl | rfl | rfl <;> exact exec_of_ok hr hp (hwidth _ rfl)
  case reads =>
    intro n m a s i hi hr hw
    simp only [List.mem_cons, List.not_mem_nil, or_false] at hi
    rcases hi with rfl | rfl <;> exact exec_of_alignedWord hr rfl rfl hw
  case only =>
    intro i s t h hreplies
    obtain ⟨-, ⟨-, rfl⟩ | ⟨-, -, rfl⟩ | ⟨hp, hw, rfl⟩⟩ := exec_next h
    · have hbenign : benignResult i = .unhandled := append_reply_inj hreplies
      cases hread : i.isRead <;> simp [benignResult, hread] at hbenign
    · cases append_reply_inj hreplies
    · rcases performed_unhandled hreplies with ⟨hread, hgroup⟩ | ⟨hread, hgroup⟩
      · exact .inl ⟨hread, hgroup, hp, hw⟩
      · obtain ⟨hsize, hlane⟩ := (widthAllowed_iff_of_word (by rw [hgroup]; rfl) _ _).1 hw
        exact .inr ⟨hread, hgroup, hsize, hlane⟩

end Sys2Proof.Machine

/-! ## A terminated domain (R139) -/

namespace Sys2Proof.Machine

theorem exec_of_terminated {s : State} (hphase : s.phase = .live) (hterminated : s.terminated = true) (i : Instr) :
    exec i s = .refused (.port .terminated) := by
  have hrefusal : s.accessRefusal i.accessor.toNat = some .terminated := by
    simp [State.accessRefusal, State.vcpuRefusal, hphase, hterminated]
  simp only [exec_eq_access, access, hrefusal]

/-- Every port operation but `DestroyDomain` requires a domain that is not terminated, or none (R250 to R256). -/
theorem portStep_of_terminated {s : State} (hphase : s.phase = .live) (hterminated : s.terminated = true) {op : PortOp}
    (hop : op ≠ .destroyDomain) : ∃ c, portStep op s = .refused (.port c) := by
  have hline : ∀ v L, ¬ s.LineReady v L := by simp [State.LineReady, hterminated]
  cases op with
  | inject v L => exact portInject_of_not_ready (hline v L)
  | ciVisible u L b => rw [portStep, portVisible]; exact collaborator_of_not_ready (hline u L)
  | ciActive u L b => rw [portStep, portActive]; exact collaborator_of_not_ready (hline u L)
  | ciRetire u L => rw [portStep, portRetire]; exact collaborator_of_not_ready (hline u L)
  | createDomain => exact portCreateDomain_of_not_ready (by simp [hphase])
  | createVcpu => exact portCreateVcpu_of_not_ready (by simp [hterminated])
  | destroyVcpu => exact portDestroyVcpu_of_not_ready (by simp [hterminated])
  | destroyDomain => exact absurd rfl hop

/-- `t` is a terminated domain, destroyed or not, with nothing in progress and with the registers, descriptors, lists,
history and replies of `s`. -/
def State.FrozenAs (s t : State) : Prop :=
  t.phase ≠ .absent ∧ t.terminated = true ∧ t.tasks = [] ∧ t.ctlr = s.ctlr ∧ t.shared = s.shared ∧ t.spi = s.spi ∧
  t.vcpu = s.vcpu ∧ t.history = s.history ∧ t.replies = s.replies

/-- The one port operation with a step in a terminated domain is `DestroyDomain`, which ends the domain and leaves its
contents (R257, log 12). -/
theorem portStep_next_of_terminated {op : PortOp} {s t : State} (hphase : s.phase ≠ .absent)
    (hterminated : s.terminated = true) (h : portStep op s = .next t) : t = { s with phase := .destroyed } := by
  have hlive : s.phase = .live := by
    cases op with
    | inject => exact (portInject_next h).1.1
    | ciVisible => exact (portVisible_next h).1.1
    | ciActive => exact (portActive_next h).1.1
    | ciRetire => exact (portRetire_next h).1.1
    | createDomain => exact absurd (portCreateDomain_next h).1 hphase
    | createVcpu => exact (portCreateVcpu_next h).1
    | destroyVcpu => exact (portDestroyVcpu_next h).1.1
    | destroyDomain => exact (portDestroyDomain_next h).1
  by_cases hop : op = .destroyDomain
  · subst hop
    obtain ⟨-, -, rfl⟩ := portDestroyDomain_next h
    rfl
  · obtain ⟨c, hc⟩ := portStep_of_terminated hlive hterminated hop
    rw [hc] at h
    cases h

/-- No step of the machine thaws a terminated domain. -/
theorem step_frozenAs {s t u : State} (hs : s.FrozenAs t) (h : step t = .next u) : s.FrozenAs u := by
  refine step_keeps (P := s.FrozenAs) (fun _ _ _ hs => hs) ?advance ?exec ?port ?env hs h
  case advance =>
    rintro k t u ⟨-, -, htasks, -⟩ h
    obtain ⟨x, hx, -⟩ := advance_next h
    rw [htasks] at hx
    cases hx
  case exec =>
    rintro - i t u - ⟨-, hterminated, -⟩ h
    obtain ⟨⟨-, hrunning, -⟩, -⟩ := exec_next h
    rw [hterminated] at hrunning
    cases hrunning
  case port =>
    rintro op t u ⟨hphase, hterminated, hrest⟩ h
    rw [portStep_next_of_terminated hphase hterminated h]
    exact ⟨nofun, hterminated, hrest⟩
  case env =>
    intro m t u hs h
    obtain ⟨-, -, rfl⟩ := envStep_next h
    exact hs

/-- Settles O48: the refusals are the preconditions, the invariant leaves nothing in progress, and the machine's steps
keep a frozen domain frozen. -/
theorem terminatedDomainIsFrozen : Obligations.TerminatedDomainIsFrozen := by
  intro s hinv hphase hterminated
  obtain ⟨-, -, -, ⟨-, -, hidle⟩, -⟩ := hinv
  have htasks : s.tasks = [] := hidle (.inl hterminated)
  have hfrozen : s.FrozenAs s := ⟨by simp [hphase], hterminated, htasks, rfl, rfl, rfl, rfl, rfl, rfl⟩
  refine ⟨exec_of_terminated hphase hterminated, fun op hop => portStep_of_terminated hphase hterminated hop,
    ⟨{ s with phase := .destroyed }, ?_, rfl⟩, fun m t h => ?_, fun t h => ?_⟩
  · simp [portStep, portDestroyDomain, hphase, htasks]
  · obtain ⟨-, -, rfl⟩ := envStep_next h
    rfl
  · obtain ⟨-, hterminated', -, hcontents⟩ := step_frozenAs hfrozen h
    exact ⟨hterminated', hcontents⟩

end Sys2Proof.Machine

/-! # Line registers (42_mmio_line_registers.md)

What dispatch lets through at a present rank, what a read of the register word returns, and which bits or bytes of the
one rank a write stores. -/

/-! ## Dispatch at a present rank -/

namespace Sys2Proof.Machine

/-- The rank of a word of a per-line group is present when its index is at most `NSR` (40_rank_store.md R101). -/
theorem State.present_of_rank_le {s : State} {g : Group} {b n : Nat} (hb : g.bitsPerLine = some b)
    (hn : n / b ≤ s.cfg.nsr) : s.Present g n := by
  intro b' hb'
  obtain rfl : b = b' := Option.some.inj (hb.symm.trans hb')
  exact hn

/-- A group with one bit per line has one register word per rank. -/
theorem State.present_of_bitmap {s : State} {g : Group} {n : Nat} (hb : g.bitsPerLine = some 1)
    (hn : n ≤ s.cfg.nsr) : s.Present g n :=
  State.present_of_rank_le hb ((Nat.div_one n).le.trans hn)

section

variable {i : Instr} {s : State} (hr : s.Ready i.accessor.toNat) (hp : s.Present i.group i.wordIndex)

include hr hp

/-- A group without byte lanes lets aligned words through and no other width (41_mmio_dispatch.md R123). -/
theorem exec_wordGroup (hbytes : i.group.allowsBytes = false) :
    (i.size = .word ∧ i.byteLane = 0#2 → exec i s = .next (performed i s)) ∧
    (¬ (i.size = .word ∧ i.byteLane = 0#2) → exec i s = .next (s.fatal i.accessor.toNat)) :=
  have hwidth := widthAllowed_iff_of_word hbytes i.size i.byteLane
  ⟨fun hw => exec_of_ok hr hp (hwidth.2 hw), fun hw => exec_of_width hr hp (mt hwidth.1 hw)⟩

/-- A group with byte lanes lets bytes and aligned words through and no other width (R123). -/
theorem exec_byteGroup (hbytes : i.group.allowsBytes = true) :
    (i.size = .byte ∨ (i.size = .word ∧ i.byteLane = 0#2) → exec i s = .next (performed i s)) ∧
    (¬ (i.size = .byte ∨ (i.size = .word ∧ i.byteLane = 0#2)) → exec i s = .next (s.fatal i.accessor.toNat)) :=
  have hwidth := widthAllowed_iff_of_byte hbytes i.size i.byteLane
  ⟨fun hw => exec_of_ok hr hp (hwidth.2 hw), fun hw => exec_of_width hr hp (mt hwidth.1 hw)⟩

end

end Sys2Proof.Machine

/-! ## Reads of a register word or of one of its bytes -/

namespace Sys2Proof.Machine

theorem readValue_of_word {a : ReadArgs} (hsz : a.sz = .word) (x : Word) : readValue x a = x := if_pos hsz

theorem readValue_of_byte {a : ReadArgs} (hsz : a.sz = .byte) (x : Word) : readValue x a = readByte x a.lane a.sg :=
  if_neg (by simp [hsz])

/-- A byte read returns the addressed lane in its low byte, and above it zeros or the sign of the lane
(40_rank_store.md R106). -/
theorem readByte_getLsbD (x : Word) (l : BitVec 2) (sg : Bool) {j : Nat} (hj : j < 32) :
    (readByte x l sg).getLsbD j =
      if j < 8 then (lane x l.toNat).getLsbD j else (sg && (lane x l.toNat).getLsbD 7) := by
  cases sg with
  | false =>
    rw [readByte, if_neg Bool.false_ne_true, BitVec.getLsbD_setWidth, decide_eq_true hj, Bool.true_and, Bool.false_and]
    split
    next => rfl
    next h => exact BitVec.getLsbD_of_ge _ _ (Nat.le_of_not_lt h)
  | true =>
    rw [readByte, if_pos rfl, BitVec.getLsbD_signExtend, BitVec.msb_eq_getLsbD_last, decide_eq_true hj, Bool.true_and,
      Bool.true_and]

/-- A word read of packed bytes returns them as its lanes (R107). -/
theorem readValue_pack_lane {m : Nat} (v : Vector Byte m) (w : Nat) {a : ReadArgs} (hsz : a.sz = .word) {k : Nat}
    (hk : k < 4) : (readValue (pack v w) a).extractLsb' (8 * k) 8 = v.getD (4 * w + k) 0#8 := by
  rw [readValue_of_word hsz]
  exact pack_lane v w k hk

/-- A byte read of packed bytes returns the addressed one, extended (R106, R107). -/
theorem readValue_pack_of_byte {m : Nat} (v : Vector Byte m) (w : Nat) {a : ReadArgs} (hsz : a.sz = .byte) :
    readValue (pack v w) a =
      if a.sg then (v.getD (4 * w + a.lane.toNat) 0#8).signExtend 32
      else (v.getD (4 * w + a.lane.toNat) 0#8).setWidth 32 := by
  rw [readValue_of_byte hsz, readByte, pack_lane v w _ a.lane.isLt]

/-- The bits of a byte read of packed bytes. -/
theorem readValue_pack_getLsbD {m : Nat} (v : Vector Byte m) (w : Nat) {a : ReadArgs} (hsz : a.sz = .byte) {j : Nat}
    (hj : j < 32) :
    (readValue (pack v w) a).getLsbD j =
      if j < 8 then (v.getD (4 * w + a.lane.toNat) 0#8).getLsbD j
      else (a.sg && (v.getD (4 * w + a.lane.toNat) 0#8).getLsbD 7) := by
  rw [readValue_of_byte hsz, readByte_getLsbD _ _ _ hj, pack_lane v w _ a.lane.isLt]

/-- The bits of a byte read of a bitmap (R106). -/
theorem readValue_getLsbD_of_byte (x : Word) {a : ReadArgs} (hsz : a.sz = .byte) {j : Nat} (hj : j < 32) :
    (readValue x a).getLsbD j =
      if j < 8 then x.getLsbD (8 * a.lane.toNat + j) else (a.sg && x.getLsbD (8 * a.lane.toNat + 7)) := by
  rw [readValue_of_byte hsz, readByte_getLsbD _ _ _ hj]
  simp only [lane_getLsbD]
  split
  next h => rw [decide_eq_true h, Bool.true_and]
  next => rfl

/-- Settles O20: both reads of each pair return the bitmap or the packed source bytes, whole or one lane. -/
theorem pendingAndSgiSourceReads : Obligations.PendingAndSgiSourceReads := by
  intro a s hr hw
  refine ⟨fun n hn => ?pending, fun n => ?sgiSource⟩
  case pending =>
    have hp : ∀ g : Group, g.bitsPerLine = some 1 → s.Present g n.toNat := fun _ hb => State.present_of_bitmap hb hn
    exact ⟨readValue (s.rankAt a.v.toNat n.toNat).pending a,
      (exec_byteGroup (i := .rdIspendr n a) hr (hp _ rfl) rfl).1 hw,
      (exec_byteGroup (i := .rdIcpendr n a) hr (hp _ rfl) rfl).1 hw,
      fun hsz => readValue_of_word hsz _, fun hsz _ hj => readValue_getLsbD_of_byte _ hsz hj⟩
  case sgiSource =>
    have hp : ∀ g : Group, g.bitsPerLine = none → s.Present g 0 := fun _ hg => s.present_of_not_perLine hg 0
    exact ⟨readValue (pack (s.vcpuAt a.v.toNat).prank.pendsgi n.toNat) a,
      (exec_byteGroup (i := .rdCpendsgir n a) hr (hp _ rfl) rfl).1 hw,
      (exec_byteGroup (i := .rdSpendsgir n a) hr (hp _ rfl) rfl).1 hw,
      fun hsz _ hk => readValue_pack_lane _ _ hsz hk, fun hsz => readValue_pack_of_byte _ _ hsz⟩

/-- Settles O21: the bytes of the lines of the word are packed into its lanes. -/
theorem priorityAndTargetReads : Obligations.PriorityAndTargetReads := by
  intro n a s hr hn hw
  have hp : ∀ g : Group, g.bitsPerLine = some 8 → s.Present g n.toNat := fun _ hb => State.present_of_rank_le hb hn
  exact ⟨readValue (pack (s.rankAt a.v.toNat (n.toNat / 8)).priority (n.toNat % 8)) a,
    readValue (pack (s.rankAt a.v.toNat (n.toNat / 8)).target (n.toNat % 8)) a,
    (exec_byteGroup (i := .rdIpriorityr n a) hr (hp _ rfl) rfl).1 hw,
    (exec_byteGroup (i := .rdItargetsr n a) hr (hp _ rfl) rfl).1 hw,
    fun hsz _ hk => ⟨readValue_pack_lane _ _ hsz hk, readValue_pack_lane _ _ hsz hk⟩,
    fun hsz _ hj => ⟨readValue_pack_getLsbD _ _ hsz hj, readValue_pack_getLsbD _ _ hsz hj⟩⟩

/-- Settles O19: an aligned word read returns the field, any other width is Fatal. -/
theorem bitmapAndConfigReads : Obligations.BitmapAndConfigReads := by
  intro a s hr
  refine ⟨fun n hn => ?bitmaps, fun n hn => ?config⟩
  case bitmaps =>
    have hp : ∀ g : Group, g.bitsPerLine = some 1 → s.Present g n.toNat := fun _ hb => State.present_of_bitmap hb hn
    have hisenabler := exec_wordGroup (i := .rdIsenabler n a) hr (hp _ rfl) rfl
    have hicenabler := exec_wordGroup (i := .rdIcenabler n a) hr (hp _ rfl) rfl
    have hisactiver := exec_wordGroup (i := .rdIsactiver n a) hr (hp _ rfl) rfl
    have hicactiver := exec_wordGroup (i := .rdIcactiver n a) hr (hp _ rfl) rfl
    refine ⟨fun hw => ⟨hisenabler.1 hw, hicenabler.1 hw, hisactiver.1 hw, hicactiver.1 hw⟩, fun hw i hi => ?_⟩
    simp only [List.mem_cons, List.not_mem_nil, or_false] at hi
    rcases hi with rfl | rfl | rfl | rfl
    · exact hisenabler.2 hw
    · exact hicenabler.2 hw
    · exact hisactiver.2 hw
    · exact hicactiver.2 hw
  case config =>
    exact exec_wordGroup (i := .rdIcfgr n a) hr (State.present_of_rank_le rfl hn) rfl

end Sys2Proof.Machine

/-! ## Writes of one rank -/

namespace Sys2Proof.Machine

/-- Storing a rank changes nothing but that rank (10_state.md R22). -/
theorem State.setRank_onlyRank (s : State) (v r : Nat) (R : Rank) : s.OnlyRank (s.setRank v r R) v r := by
  refine ⟨rfl, fun u => ?_, fun u q hne => ?_⟩
  · rw [State.vcpuAt_setRank]
    split
    next h => rw [h.1]
    next => rfl
  · rw [State.rankAt_setRank, if_neg (by grind)]

/-- An access's operation that has no step left exactly when `p` holds returns `Handled` at once if it does, and goes on
if not (10_state.md R41, log 15). -/
theorem State.begin_of_isDone_iff {p : Prop} [Decidable p] (s : State) {x : Task} {v : Nat}
    (hdone : x.isDone = true ↔ p) (haccessor : x.accessor = some v) :
    s.begin x = if p then s.reply v .handled else { s with tasks := s.tasks ++ [x] } := by
  simp only [State.begin, State.complete, haccessor]
  exact if_congr hdone rfl rfl

/-- The bits of a bitmap after a write that sets the written bits of valid lines (R104, R152). -/
theorem or_written_getLsbD (c : Config) (r : Nat) (x val : Word) {i : Nat} (hi : i < 32) :
    (x ||| (val &&& validMask c r)).getLsbD i =
      (x.getLsbD i || (val.getLsbD i && decide (32 * r + i < c.nlines))) := by
  rw [BitVec.getLsbD_or, BitVec.getLsbD_and, validMask_getLsbD c r i hi]

/-- The bits of a bitmap after a write that clears the written bits of valid lines (R104, R153, R161). -/
theorem and_not_written_getLsbD (c : Config) (r : Nat) (x val : Word) {i : Nat} (hi : i < 32) :
    (x &&& ~~~(val &&& validMask c r)).getLsbD i =
      (x.getLsbD i && !(val.getLsbD i && decide (32 * r + i < c.nlines))) := by
  rw [BitVec.getLsbD_and, BitVec.getLsbD_not, BitVec.getLsbD_and, validMask_getLsbD c r i hi, decide_eq_true hi,
    Bool.true_and]

theorem newlyEnabled_getLsbD (s : State) (v n : Nat) (val : Word) {i : Nat} (hi : i < 32) :
    (newlyEnabled s v n val).getLsbD i =
      (val.getLsbD i && decide (32 * n + i < s.cfg.nlines) && !(s.rankAt v n).enable.getLsbD i) := by
  rw [newlyEnabled, BitVec.getLsbD_and, BitVec.getLsbD_and, BitVec.getLsbD_not, validMask_getLsbD _ n i hi,
    decide_eq_true hi, Bool.true_and]

theorem newlyDisabled_getLsbD (s : State) (v n : Nat) (val : Word) {i : Nat} (hi : i < 32) :
    (newlyDisabled s v n val).getLsbD i =
      (val.getLsbD i && decide (32 * n + i < s.cfg.nlines) && (s.rankAt v n).enable.getLsbD i) := by
  rw [newlyDisabled, BitVec.getLsbD_and, BitVec.getLsbD_and, validMask_getLsbD _ n i hi]

/-- Settles O25: the rank phase sets the written valid bits, and the operation has one step left per bit newly set. -/
theorem setEnableWrite : Obligations.SetEnableWrite := by
  intro n a s hs hr hn
  obtain ⟨hok, hfatal⟩ := exec_wordGroup (i := .wrIsenabler n a) hr (State.present_of_bitmap rfl hn) rfl
  have ⟨_, _, hv, _⟩ := hr
  have hrank : (setEnable s a.v.toNat n.toNat a.val).rankAt a.v.toNat n.toNat = _ :=
    State.rankAt_setRank_of_sized hs hv hn _
  refine ⟨fun hw => ⟨setEnable s a.v.toNat n.toNat a.val, newlyEnabled s a.v.toNat n.toNat a.val, ?_,
    s.setRank_onlyRank _ _ _, by rw [hrank], fun i hi => ?_⟩, hfatal⟩
  · exact (hok hw).trans (congrArg _ (State.begin_of_isDone_iff _ beq_iff_eq rfl))
  · rw [hrank]
    exact ⟨or_written_getLsbD _ _ _ _ hi, newlyEnabled_getLsbD s _ _ _ hi⟩

/-- Settles O26: the rank phase clears the written valid bits, and the operation has one step left per bit newly
cleared. -/
theorem clearEnableWrite : Obligations.ClearEnableWrite := by
  intro n a s hs hr hn
  obtain ⟨hok, hfatal⟩ := exec_wordGroup (i := .wrIcenabler n a) hr (State.present_of_bitmap rfl hn) rfl
  have ⟨_, _, hv, _⟩ := hr
  have hrank : (clearEnable s a.v.toNat n.toNat a.val).rankAt a.v.toNat n.toNat = _ :=
    State.rankAt_setRank_of_sized hs hv hn _
  refine ⟨fun hw => ⟨clearEnable s a.v.toNat n.toNat a.val, newlyDisabled s a.v.toNat n.toNat a.val, ?_,
    s.setRank_onlyRank _ _ _, by rw [hrank], fun i hi => ?_⟩, hfatal⟩
  · exact (hok hw).trans (congrArg _ (State.begin_of_isDone_iff _ beq_iff_eq rfl))
  · rw [hrank]
    exact ⟨and_not_written_getLsbD _ _ _ _ hi, newlyDisabled_getLsbD s _ _ _ hi⟩

/-- Settles O27: the write stores the active bitmap of one rank and nothing else. -/
theorem clearActiveWrite : Obligations.ClearActiveWrite := by
  intro n a s hs hr hn
  obtain ⟨hok, hfatal⟩ := exec_wordGroup (i := .wrIcactiver n a) hr (State.present_of_bitmap rfl hn) rfl
  have ⟨_, _, hv, _⟩ := hr
  have hrank : (clearActive s a.v.toNat n.toNat a.val).rankAt a.v.toNat n.toNat = _ :=
    State.rankAt_setRank_of_sized hs hv hn _
  refine ⟨fun hw => ⟨clearActive s a.v.toNat n.toNat a.val, hok hw,
    s.setRank_onlyRank _ _ _, by rw [hrank], fun i hi => ?_⟩, hfatal⟩
  rw [hrank]
  exact and_not_written_getLsbD _ _ _ _ hi

/-- The bytes after a byte or an aligned word write, as R163 and R166 write them: a byte write stores `val[7:0]`, which
is lane 0 of the value. -/
theorem storeBytes_getD_of_byteOrWord (c : Config) (r : Nat) {w : Nat} (v : Vector Byte 32) {x : WriteArgs}
    (hx : x.byteOrWord) (hw : w < 8) (j : Nat) :
    (storeBytes c r w v x).getD j 0#8 =
      if j / 4 = w ∧ 32 * r + j < c.nlines ∧ (x.sz = .byte → j % 4 = x.lane.toNat) then
        x.val.extractLsb' (if x.sz = .word then 8 * (j % 4) else 0) 8
      else v.getD j 0#8 := by
  rw [storeBytes_getD c r w v x hw j]
  rcases hx with hsz | ⟨hsz, -⟩
  · simp [hsz, BitVec.setWidth_eq_extractLsb']
  · simp [hsz, lane]

/-- Settles O28: each write stores the byte array of one rank, which holds the written lanes of the valid lines. -/
theorem priorityAndTargetWrites : Obligations.PriorityAndTargetWrites := by
  intro n a s hs hr hn
  have hp : ∀ g : Group, g.bitsPerLine = some 8 → s.Present g n.toNat := fun _ hb => State.present_of_rank_le hb hn
  obtain ⟨hpriority, hpriorityFatal⟩ := exec_byteGroup (i := .wrIpriorityr n a) hr (hp _ rfl) rfl
  obtain ⟨htarget, htargetFatal⟩ := exec_byteGroup (i := .wrItargetsr n a) hr (hp _ rfl) rfl
  have ⟨_, _, hv, _⟩ := hr
  have hword : n.toNat % 8 < 8 := Nat.mod_lt _ (by decide)
  refine ⟨fun hw => ⟨?priority, fun _ => ?target⟩, fun hw i hi => ?fatal⟩
  case priority =>
    have hrank : (storePriority s n.toNat a).rankAt a.v.toNat (n.toNat / 8) = _ :=
      State.rankAt_setRank_of_sized hs hv hn _
    refine ⟨storePriority s n.toNat a, hpriority hw, s.setRank_onlyRank _ _ _, by rw [hrank], fun j _ => ?_⟩
    rw [hrank]
    exact storeBytes_getD_of_byteOrWord _ _ _ hw hword j
  case target =>
    have hrank : (storeTarget s n.toNat a).rankAt a.v.toNat (n.toNat / 8) = _ :=
      State.rankAt_setRank_of_sized hs hv hn _
    refine ⟨storeTarget s n.toNat a, htarget hw, s.setRank_onlyRank _ _ _, by rw [hrank], fun j _ => ?_⟩
    rw [hrank]
    exact storeBytes_getD_of_byteOrWord _ _ _ hw hword j
  case fatal =>
    simp only [List.mem_cons, List.not_mem_nil, or_false] at hi
    rcases hi with rfl | rfl
    · exact hpriorityFatal hw
    · exact htargetFatal hw

/-- Settles O29: field `j` of config word `n` belongs to line `16n + j`, of rank `n / 2`. -/
theorem configWrite : Obligations.ConfigWrite := by
  intro n a s hs hr _ hn
  obtain ⟨hok, hfatal⟩ := exec_wordGroup (i := .wrIcfgr n a) hr (State.present_of_rank_le rfl hn) rfl
  have ⟨_, _, hv, _⟩ := hr
  have hrank : (storeCfgWord s n.toNat a).rankAt a.v.toNat (n.toNat / 2) = _ :=
    State.rankAt_setRank_of_sized hs hv hn _
  refine ⟨fun hw => ⟨storeCfgWord s n.toNat a, hok hw, s.setRank_onlyRank _ _ _, by rw [hrank],
    fun w hw2 i hi => ?_⟩, hfatal⟩
  rw [hrank]
  have hline : 32 * (n.toNat / 2) + 16 * (n.toNat % 2) = 16 * n.toNat := by omega
  have hbit := storeConfig_getLsbD s.cfg (n.toNat / 2) (n.toNat % 2) (s.rankAt a.v.toNat (n.toNat / 2)).config a.val
    (Nat.mod_lt _ (by decide)) w i hw2 hi
  rwa [hline] at hbit

end Sys2Proof.Machine

/-! # The enable and disable transitions (43_enable_disable.md)

What a write of one line leaves unchanged, what an operation in progress leaves after a step, and from these one enable
step and one disable step. -/

/-! ## The frame of one line -/

namespace Sys2Proof.Machine

/-- Two changes that each touch line `L` and the list of `w` only. -/
theorem State.OnlyLine.trans {s t u : State} {v L w : Nat} (hst : s.OnlyLine t v L w) (htu : t.OnlyLine u v L w) :
    s.OnlyLine u v L w := by
  obtain ⟨hfields, hvcpu, hdesc, hlist⟩ := hst
  obtain ⟨hfields', hvcpu', hdesc', hlist'⟩ := htu
  refine ⟨by rw [hfields', hfields], fun x => ?_, fun x M h => ?_, fun x h => ?_⟩
  · rw [hvcpu' x, hvcpu x]
  · rw [hdesc' x M h, hdesc x M h]
  · rw [hlist' x h, hlist x h]

/-- The frame does not speak of the history, the operations in progress and the replies. -/
theorem State.OnlyLine.log {s t : State} {v L w : Nat} (h : s.OnlyLine t v L w) (es : List Event) (ts : List Task)
    (rs : List Reply) : s.OnlyLine { t with history := es, tasks := ts, replies := rs } v L w := by
  obtain ⟨hfields, hrest⟩ := h
  exact ⟨by rw [hfields], hrest⟩

/-- Writing the descriptor of a line changes no list (10_state.md R26). -/
theorem State.setDesc_onlyLine (s : State) (v L : Nat) (d : Descriptor) (w : Nat) :
    s.OnlyLine (s.setDesc v L d) v L w := by
  refine ⟨rfl, fun u => ?_, fun u M h => ?_, fun u _ => s.inflight_setDesc v u L d⟩
  · rw [State.vcpuAt_setDesc]
    split
    next hu => rw [hu.1]
    next => rfl
  · rw [State.desc_setDesc, if_neg]
    omega

/-- Writing the list of `w` changes no descriptor (R27). -/
theorem State.setInflight_onlyLine (s : State) (v L w : Nat) (l : List Nat) :
    s.OnlyLine (s.setInflight w l) v L w := by
  refine ⟨rfl, fun u => ?_, fun u M _ => s.desc_setInflight w u M l, fun u h => ?_⟩
  · rw [State.vcpuAt_setInflight]
    split
    next hu => rw [hu.1]
    next => rfl
  · rw [State.inflight_setInflight, if_neg fun hu => h hu.1.symm]

theorem State.setInflight_self (s : State) (v : Nat) : s.setInflight v (s.inflight v) = s := by
  have hlist : s.vcpu.set v (s.vcpuAt v) = s.vcpu := by
    apply List.ext_getElem?
    intro u
    simp only [State.vcpuAt, List.getElem?_set, List.getD_eq_getElem?_getD]
    grind
  rw [State.setInflight]
  exact congrArg (fun l => { s with vcpu := l }) hlist

end Sys2Proof.Machine

/-! ## What an operation leaves after a step -/

namespace Sys2Proof.Machine

/-- A step of an operation in progress is `taskStep`, but for the operations in progress and the replies, which are as
the operation leaves them (10_state.md R41). -/
theorem advance_leaves {k : Nat} {s : State} {x : Task} (h : s.tasks[k]? = some x) :
    ∃ ts rs, advance k s = .next { (taskStep x s).1 with tasks := ts, replies := rs } ∧
      s.Leaves { (taskStep x s).1 with tasks := ts, replies := rs } k (taskStep x s).2 := by
  obtain ⟨hleaves, hfields⟩ := (taskStep x s).1.putTask_leaves k (taskStep x s).2
  refine ⟨_, _, (advance_of_getElem? h).trans (congrArg _ hfields), ?_⟩
  have htasks : (taskStep x s).1.tasks = s.tasks := by rw [taskStep_frame]
  have hreplies : (taskStep x s).1.replies = s.replies := by rw [taskStep_frame]
  simpa only [State.Leaves, htasks, hreplies] using hleaves

/-- The next step of an enable transition is the one of its lowest line (43_enable_disable.md R190). -/
theorem taskStep_enable (s : State) {m : Word} {i : Nat} (hi : lowestBit m = some i) (acc cp : Option Nat)
    (v n : Nat) :
    taskStep ⟨acc, cp, .none, .enable v m n⟩ s =
      ((enableStep v (32 * n + i) s).1,
        ⟨acc, cp, (enableStep v (32 * n + i) s).2, .enable v (clearBit m i) n⟩) := by
  simp only [taskStep, workStep, hi]

/-- The next step of a disable transition is the one of its lowest line (R194). -/
theorem taskStep_disable (s : State) {m : Word} {i : Nat} (hi : lowestBit m = some i) (acc cp : Option Nat)
    (v n : Nat) :
    taskStep ⟨acc, cp, .none, .disable v m n⟩ s =
      (disableStep v (32 * n + i) s, ⟨acc, cp, .none, .disable v (clearBit m i) n⟩) := by
  simp only [taskStep, workStep, hi]

/-- The next line of an enable or disable transition is a line of the domain, and its vCPU exists (R190, R194). -/
theorem State.TasksOk.transition_lt {s : State} (h : s.TasksOk) {k v n i : Nat} {m : Word} {x : Task}
    (hx : s.tasks[k]? = some x) (hw : x.work = .enable v m n ∨ x.work = .disable v m n)
    (hi : lowestBit m = some i) : v < s.cfg.nvcpu ∧ 32 * n + i < s.cfg.nlines := by
  obtain ⟨-, hexists, -, hwork⟩ := (Task.ok_iff s x).1 (h.1 x (List.mem_of_getElem? hx))
  obtain ⟨hv, hm⟩ : x.accessor = some v ∧ linesOk s.cfg m n = true := by
    rcases hw with hw | hw <;> rw [hw] at hwork
    · exact Work.ok_enable.1 hwork
    · exact Work.ok_disable.1 hwork
  exact ⟨((s.hasVcpu_iff v).1 (hexists v hv)).1, line_lt_of_lowestBit hm hi⟩

end Sys2Proof.Machine

/-! ## One enable step (R191 to R193) -/

namespace Sys2Proof.Machine

theorem forcesInjection_iff (v L : Nat) (s : State) :
    forcesInjection v L s = true ↔
      s.cfg.evtchnLine = some L ∧ (s.envAt v).upcall = true ∧ (s.desc v L).linked = none := by
  simp only [forcesInjection, Bool.and_eq_true, beq_iff_eq, and_assoc]

theorem reraiseEvents_of_invisible {d : Descriptor} {u : Nat} (hlink : d.linked = some u) (hvis : d.visible = false)
    (L : Nat) : reraiseEvents d L = [.piReraise u L] := by
  simp [reraiseEvents, hlink, hvis]

theorem reraiseEvents_eq_nil {d : Descriptor} (h : d.linked = none ∨ d.visible = true) (L : Nat) :
    reraiseEvents d L = [] := by
  rcases h with hlink | hvis
  · simp [reraiseEvents, hlink]
  · cases hlink : d.linked <;> simp [reraiseEvents, hlink, hvis]

/-- The events of an enable step: the backing interrupt, and the re-raise unless an injection is forced. -/
def enableEvents (v L : Nat) (s : State) : List Event :=
  physEvents s.cfg v L .piEnablePhys ++ (if forcesInjection v L s then [] else reraiseEvents (s.desc v L) L)

/-- An enable step marks the line enabled and emits its events, and leaves the injection it forces to run next. -/
theorem enableStep_eq (v L : Nat) (s : State) :
    enableStep v L s =
      ((s.setDesc v L (s.desc v L).enable).emitAll (enableEvents v L s),
        if forcesInjection v L s then .link v L else .none) := by
  cases h : forcesInjection v L s <;> simp [enableStep, enableEvents, h, State.emitAll]

/-- Settles O38: the step writes one descriptor, emits its events and leaves the injection it forces, if any, to run
next. -/
theorem enableStepEffect : Obligations.EnableStepEffect := by
  intro s k v n i m acc cp hinv htask hbit hlow
  obtain ⟨-, hsized, -, htasks, -⟩ := hinv
  have hi : lowestBit m = some i := (lowestBit_eq_some m i).2 ⟨hbit, hlow⟩
  obtain ⟨hv, hL⟩ := htasks.transition_lt htask (.inl rfl) hi
  obtain ⟨ts, rs, hadvance, hleaves⟩ := advance_leaves htask
  rw [taskStep_enable s hi, enableStep_eq] at hadvance hleaves
  generalize 32 * n + i = L at hL hadvance hleaves ⊢
  rw [← forcesInjection_iff]
  refine ⟨_, hadvance, (s.setDesc_onlyLine v L _ v).log _ _ _, s.inflight_setDesc v v L _, ?desc,
    physEvents s.cfg v L .piEnablePhys, rfl, fun hforced => ?forced, fun hplain => ?plain⟩
  case desc => exact (State.desc_setDesc_of_sized hsized hv hL _ v L).trans (if_pos ⟨rfl, fun _ => rfl⟩)
  case forced =>
    rw [if_pos hforced] at hleaves
    exact ⟨by simp [enableEvents, hforced], hleaves⟩
  case plain =>
    rw [if_neg hplain] at hleaves
    refine ⟨fun u hlink hvis => ?_, fun hquiet => ?_, hleaves⟩
    · simp [enableEvents, hplain, reraiseEvents_of_invisible hlink hvis]
    · simp [enableEvents, hplain, reraiseEvents_eq_nil hquiet]

end Sys2Proof.Machine

/-! ## One disable step (R195) -/

namespace Sys2Proof.Machine

/-- The vCPU whose list a disable step takes the line out of: the one that holds it, else the accessor (R195). -/
def State.holder (s : State) (v L : Nat) : Nat := (s.desc v L).linked.getD v

theorem State.LinkageOk.holder_lt {s : State} (h : s.LinkageOk) {v L : Nat} (hv : v < s.cfg.nvcpu)
    (hL : L < s.cfg.nlines) : s.holder v L < s.cfg.nvcpu := by
  rw [State.holder]
  cases hlink : (s.desc v L).linked with
  | none => exact hv
  | some u => exact (h.mem_of_linked hv hL hlink).1

/-- A disable step takes the line out of its holder's list, which is no change where the line is linked nowhere. -/
theorem disableStep_eq {s : State} (h : s.LinkageOk) {v L : Nat} (hv : v < s.cfg.nvcpu) (hL : L < s.cfg.nlines) :
    disableStep v L s =
      ((s.setInflight (s.holder v L) ((s.inflight (s.holder v L)).filter (fun x => x ≠ L))).setDesc v L
        (s.desc v L).disable).emitAll
          (.piRemoveFromQueues (s.holder v L) L :: physEvents s.cfg v L .piDisablePhys) := by
  cases hlink : (s.desc v L).linked with
  | some u =>
    have hholder : s.holder v L = u := by rw [State.holder, hlink]; rfl
    have hnodup := (h.1 u (h.mem_of_linked hv hL hlink).1).1
    have herase : (s.inflight u).erase L = (s.inflight u).filter (fun x => x ≠ L) := by
      rw [hnodup.erase_eq_filter]
      exact List.filter_congr fun x _ => Bool.eq_iff_iff.2 (by simp)
    simp only [disableStep, hlink, hholder, herase, Option.getD_some]
  | none =>
    have hholder : s.holder v L = v := by rw [State.holder, hlink]; rfl
    have habsent : L ∉ s.inflight v := h.not_mem_of_unlinked hv hL hlink hv fun _ => rfl
    have hfilter : (s.inflight v).filter (fun x => x ≠ L) = s.inflight v :=
      List.filter_eq_self.2 fun x hx => decide_eq_true fun e => habsent (e ▸ hx)
    rw [hholder, hfilter, State.setInflight_self]
    simp only [disableStep, hlink, Option.getD_none]

/-- Settles O39: the step writes the holder's list and the descriptor of the line, and nothing else of the domain. -/
theorem disableStepEffect : Obligations.DisableStepEffect := by
  intro s k v n i m acc cp hinv htask hbit hlow
  obtain ⟨-, hsized, hlinkage, htasks, -⟩ := hinv
  have hi : lowestBit m = some i := (lowestBit_eq_some m i).2 ⟨hbit, hlow⟩
  obtain ⟨hv, hL⟩ := htasks.transition_lt htask (.inr rfl) hi
  obtain ⟨ts, rs, hadvance, hleaves⟩ := advance_leaves htask
  rw [taskStep_disable s hi, disableStep_eq hlinkage hv hL] at hadvance hleaves
  generalize 32 * n + i = L at hL hadvance hleaves ⊢
  have hholder := hlinkage.holder_lt hv hL
  have hsized' : ∀ l, (s.setInflight (s.holder v L) l).Sized := fun l => by simpa [State.Sized] using hsized
  refine ⟨_, s.holder v L, hadvance, rfl, ?frame, ?list, ?desc, rfl, hleaves⟩
  case frame => exact ((s.setInflight_onlyLine v L _ _).trans (State.setDesc_onlyLine _ v L _ _)).log _ _ _
  case list =>
    exact (State.inflight_setDesc _ v _ L _).trans
      ((State.inflight_setInflight_of_sized hsized hholder _ _).trans (if_pos rfl))
  case desc => exact (State.desc_setDesc_of_sized (hsized' _) hv hL _ v L).trans (if_pos ⟨rfl, fun _ => rfl⟩)

end Sys2Proof.Machine

/-! # The Injection Engine (44_injection.md)

Where ordered insertion splits a list, what steps 1 to 4 of an injection do to one line and one list, and the events of
step 5. -/

/-! ## Ordered insertion (R217) -/

namespace Sys2Proof.Machine

/-- In a sorted list an element that goes before the head goes before every element. -/
theorem lt_of_lt_head {prio : Nat → Byte} {l : List Nat} {p : Byte}
    (hsorted : l.Pairwise (fun x y => prio x ≤ prio y)) (hhead : ∀ x, l.head? = some x → p < prio x) :
    ∀ x ∈ l, p < prio x := by
  cases l with
  | nil => simp
  | cons z l =>
    have hz : p < prio z := hhead z rfl
    exact List.forall_mem_cons.2 ⟨hz, fun x hx => Nat.lt_of_lt_of_le hz ((List.pairwise_cons.1 hsorted).1 x hx)⟩

/-- Settles O36: the split of the list at the place of the new element; in a sorted list the head of the second part
bounds all of it. -/
theorem insertKeepsOrder : Obligations.InsertKeepsOrder := by
  intro prio l L
  obtain ⟨pre, post, rfl, hinsert, hpre, hhead⟩ := insertByPrio_split prio l L (prio L)
  refine ⟨pre, post, rfl, hinsert, fun x hx => BitVec.not_lt.1 (hpre x hx), hhead, fun hsorted => ⟨?_, ?_⟩⟩
  · exact lt_of_lt_head (List.pairwise_append.1 hsorted).2.1 hhead
  · exact insertByPrio_sorted prio _ L hsorted

end Sys2Proof.Machine

/-! ## The `Inject` port by the three ways an injection goes (R211 to R214, R250) -/

namespace Sys2Proof.Machine

section
variable {s : State} {v L : Nat}

theorem portInject_of_ready (hready : s.LineReady v L) (cp : Option Nat) :
    portInject v L cp s = .next ((injectLink v L s).1.begin
      ⟨none, cp, if (injectLink v L s).2 then .notify v else .none, .nothing⟩) := by
  simp only [portInject, (State.lineRefusal_eq_none s v L).2 hready]

/-- A linked line coalesces, and no step is left (R211). -/
theorem portInject_of_linked (hready : s.LineReady v L) {u : Nat} (hlink : (s.desc v L).linked = some u)
    (cp : Option Nat) :
    portInject v L cp s = .next ((s.setDesc v L (s.desc v L).retrigger).emit (.piReraise u L)) := by
  rw [portInject_of_ready hready, injectLink, hlink]
  rfl

/-- An offline vCPU drops the injection of an unlinked line, and no step is left (R212). -/
theorem portInject_of_offline (hready : s.LineReady v L) (hnone : (s.desc v L).linked = none)
    (hoffline : (s.envAt v).online = false) (cp : Option Nat) : portInject v L cp s = .next s := by
  rw [portInject_of_ready hready, injectLink, hnone, hoffline]
  rfl

/-- An unlinked line is raised and inserted, and the notification is left to do (R213, R214). -/
theorem portInject_of_online (hready : s.LineReady v L) (hnone : (s.desc v L).linked = none)
    (honline : (s.envAt v).online = true) (cp : Option Nat) :
    portInject v L cp s = .next { injectInsert v L (injectRaise v L s) with
      tasks := s.tasks ++ [⟨none, cp, .notify v, .nothing⟩] } := by
  rw [portInject_of_ready hready, injectLink, hnone, honline]
  rfl

end

/-- Settles O34: a linked line is marked and re-raised, an offline vCPU changes nothing, and a line that is not ready is
refused. -/
theorem injectCoalescesOrDrops : Obligations.InjectCoalescesOrDrops := by
  intro s v L cp hsized
  refine ⟨fun hready => ⟨fun u hlink => ?linked, fun hnone hoffline => ?offline⟩, portInject_of_not_ready⟩
  case linked =>
    have ⟨_, _, hv, _, hL⟩ := hready
    refine ⟨_, portInject_of_linked hready hlink cp, (s.setDesc_onlyLine v L _ v).log _ _ _, ?_, ?_, rfl, rfl, rfl⟩
    · exact s.inflight_setDesc v v L _
    · exact (State.desc_setDesc_of_sized hsized hv hL _ v L).trans (if_pos ⟨rfl, fun _ => rfl⟩)
  case offline => exact portInject_of_offline hready hnone hoffline cp

end Sys2Proof.Machine

/-! ## Linking in order (R213, R214) -/

namespace Sys2Proof.Machine

theorem injectRaise_onlyLine (s : State) (v L w : Nat) : s.OnlyLine (injectRaise v L s) v L w :=
  (s.setDesc_onlyLine v L _ w).log _ _ _

theorem injectInsert_onlyLine (s : State) (v L : Nat) : s.OnlyLine (injectInsert v L s) v L v :=
  (s.setInflight_onlyLine v L v _).trans (State.setDesc_onlyLine _ v L _ v)

@[simp] theorem injectRaise_inflight (s : State) (v L w : Nat) : (injectRaise v L s).inflight w = s.inflight w :=
  s.inflight_setDesc v w L _

theorem injectRaise_sized {s : State} (hsized : s.Sized) (v L : Nat) : (injectRaise v L s).Sized := by
  simpa [State.Sized, injectRaise] using hsized

section
variable {s : State} {v L : Nat}

theorem injectRaise_desc_self (hsized : s.Sized) (hv : v < s.cfg.nvcpu) (hL : L < s.cfg.nlines) :
    (injectRaise v L s).desc v L = (s.desc v L).snapshot (s.priorityOf v L) :=
  (State.desc_setDesc_of_sized hsized hv hL _ v L).trans (if_pos ⟨rfl, fun _ => rfl⟩)

theorem injectInsert_desc_self (hsized : s.Sized) (hv : v < s.cfg.nvcpu) (hL : L < s.cfg.nlines) :
    (injectInsert v L s).desc v L = (s.desc v L).linkTo v := by
  have hsized' : ∀ l, (s.setInflight v l).Sized := fun l => by simpa [State.Sized] using hsized
  exact (State.desc_setDesc_of_sized (hsized' _) hv hL _ v L).trans (if_pos ⟨rfl, fun _ => rfl⟩)

theorem injectInsert_inflight_self (hsized : s.Sized) (hv : v < s.cfg.nvcpu) (L : Nat) :
    (injectInsert v L s).inflight v =
      insertByPrio (fun x => (s.desc v x).prio) (s.inflight v) L (s.desc v L).prio := by
  rw [injectInsert, State.inflight_setDesc, State.inflight_setInflight_of_sized hsized hv, if_pos rfl]

/-- The line is inserted by the priorities the listed lines had before: step 3 wrote the snapshot of a line that is in
no list (R213, R214). -/
theorem inject_inflight_self (hsized : s.Sized) (hlinkage : s.LinkageOk) (hv : v < s.cfg.nvcpu)
    (hL : L < s.cfg.nlines) (hnone : (s.desc v L).linked = none) :
    (injectInsert v L (injectRaise v L s)).inflight v =
      insertByPrio (fun x => (s.desc v x).prio) (s.inflight v) L (s.priorityOf v L) := by
  have habsent : L ∉ s.inflight v := hlinkage.not_mem_of_unlinked hv hL hnone hv fun _ => rfl
  obtain ⟨-, -, hothers, -⟩ := injectRaise_onlyLine s v L v
  rw [injectInsert_inflight_self (injectRaise_sized hsized v L) hv, injectRaise_inflight,
    injectRaise_desc_self hsized hv hL]
  refine insertByPrio_congr _ _ _ fun x hx => ?_
  rw [hothers v x fun h => habsent (h.1 ▸ hx)]

end

/-- Settles O35: the frame and the descriptor follow from those of steps 3 and 4, and the place in the list from the
ordering invariant. -/
theorem injectLinksInOrder : Obligations.InjectLinksInOrder := by
  intro s v L cp hinv horder hready hnone honline
  obtain ⟨-, hsized, hlinkage, -⟩ := hinv
  have ⟨_, _, hv, _, hL⟩ := hready
  have hdesc : (injectInsert v L (injectRaise v L s)).desc v L =
      ((s.desc v L).snapshot (s.priorityOf v L)).linkTo v := by
    rw [injectInsert_desc_self (injectRaise_sized hsized v L) hv hL, injectRaise_desc_self hsized hv hL]
  have hprio : ((injectInsert v L (injectRaise v L s)).desc v L).prio = s.priorityOf v L := by rw [hdesc]; rfl
  obtain ⟨pre, post, hlist, hinsert, hpre, hhead⟩ :=
    insertByPrio_split (fun x => (s.desc v x).prio) (s.inflight v) L (s.priorityOf v L)
  have hsorted := horder v hv
  rw [hlist] at hsorted
  refine ⟨_, pre, post, portInject_of_online hready hnone honline cp, ?frame, hdesc, hlist, ?list, ?before, ?after,
    ?history, rfl, rfl⟩
  case frame => exact ((injectRaise_onlyLine s v L v).trans (injectInsert_onlyLine _ v L)).log _ _ _
  case list => exact (inject_inflight_self hsized hlinkage hv hL hnone).trans hinsert
  case before => exact fun x hx => BitVec.not_lt.1 (hprio ▸ hpre x hx)
  case after => exact fun x hx => hprio ▸ lt_of_lt_head (List.pairwise_append.1 hsorted).2.1 hhead x hx
  case history => exact hprio ▸ rfl

end Sys2Proof.Machine

/-! ## Step 5, the notification (R215, 70_reset_and_hazards.md R344) -/

namespace Sys2Proof.Machine

/-- A vCPU that runs on another processor than the caller's is notified. -/
theorem notifyEvents_of_elsewhere {s : State} {v p : Nat} {cp : Option Nat} (hrun : (s.envAt v).runningOn = some p)
    (hcp : cp ≠ some p) :
    notifyEvents v cp s = [.notify p] ++ (if (s.envAt v).blocked then [.wake v] else []) := by
  simp only [notifyEvents, hrun, if_neg hcp]

/-- A vCPU that does not run, or runs on the caller's processor, is not notified. -/
theorem notifyEvents_of_not_elsewhere {s : State} {v : Nat} {cp : Option Nat}
    (h : (s.envAt v).runningOn = none ∨ (s.envAt v).runningOn = cp) :
    notifyEvents v cp s = if (s.envAt v).blocked then [.wake v] else [] := by
  cases hrun : (s.envAt v).runningOn with
  | none => simp only [notifyEvents, hrun, List.nil_append]
  | some p =>
    have hcp : cp = some p := by simpa [hrun, eq_comm] using h
    simp only [notifyEvents, hrun, if_pos hcp, List.nil_append]

theorem taskStep_notify (s : State) (acc cp : Option Nat) (v : Nat) (w : Work) :
    taskStep ⟨acc, cp, .notify v, w⟩ s = (s.emitAll (notifyEvents v cp s), ⟨acc, cp, .none, w⟩) := rfl

/-- Settles O37: the step appends its events, read off the environment when it runs, and leaves the rest of the
operation. -/
theorem notifyStep : Obligations.NotifyStep := by
  intro s k v acc cp w htask
  obtain ⟨ts, rs, hadvance, hleaves⟩ := advance_leaves htask
  rw [taskStep_notify] at hadvance hleaves
  refine ⟨_, hadvance, rfl, hleaves, fun p hrun hcp => ?_, fun h => ?_⟩
  · rw [List.append_assoc, ← notifyEvents_of_elsewhere hrun hcp, State.emitAll_history]
  · rw [← notifyEvents_of_not_elsewhere h, State.emitAll_history]

end Sys2Proof.Machine

/-! # The SGI dispatcher (45_sgi.md)

The candidate masks of the filters, the test of one target, and the injection a target that passes is given: the one of
the `Inject` port. -/

/-! ## The first step of an SGI write (R231 to R234) -/

namespace Sys2Proof.Machine

/-- The mask `1 << v` names the sender alone (R233). -/
theorem selfMask_getLsbD (v : Nat) {j : Nat} (hj : j < 8) : (1#8 <<< v).getLsbD j = decide (j = v) := by
  have hbit : (1#8 <<< v).getLsbD j = (decide (v < 8) && decide (v = j)) := BitVec.getLsbD_twoPow v j
  rw [hbit, Bool.eq_iff_iff, Bool.and_eq_true, decide_eq_true_iff, decide_eq_true_iff, decide_eq_true_iff]
  omega

/-- `OTHERS(s)` names the vCPU ids of the domain but the sender (R232). -/
theorem othersMask_getLsbD (c : Config) (v : Nat) {j : Nat} (hj : j < 8) :
    (othersMask c v).getLsbD j = (decide (j < c.nvcpu) && decide (j ≠ v)) := by
  have hall : (orOver (fun u => 1#8 <<< u) c.nvcpu).getLsbD j = decide (j < c.nvcpu) := by
    rw [orOver_getLsbD, Bool.eq_iff_iff, List.any_eq_true]
    simp only [selfMask_getLsbD _ hj, List.mem_range, decide_eq_true_iff, exists_eq_right']
  exact (clearBit_getLsbD _ v j).trans (by rw [hall])

/-- The fan-out leaves its targets to do, and with none it returns `Handled` at once (R235, log 15). -/
theorem sgiFanOut_eq (v : Nat) (m : Byte) (id : Nat) (s : State) :
    sgiFanOut v m id s =
      if m = 0#8 then s.reply v .handled
      else { s with tasks := s.tasks ++ [⟨some v, (s.envAt v).runningOn, .none, .fanOut m id⟩] } :=
  s.begin_of_isDone_iff beq_iff_eq rfl

/-- Settles O32: dispatch lets the three rows through, and each fans out to the mask of its filter. -/
theorem sgirTargetMasks : Obligations.SgirTargetMasks := by
  intro v list id s hr _ i inMask hi
  obtain ⟨M, hmask, hexec⟩ : ∃ M : Byte, (∀ j < 8, M.getLsbD j = inMask j) ∧
      exec i s = .next (sgiFanOut v.toNat M id.toNat s) := by
    simp only [List.mem_cons, List.not_mem_nil, or_false, Prod.mk.injEq] at hi
    rcases hi with ⟨rfl, rfl⟩ | ⟨rfl, rfl⟩ | ⟨rfl, rfl⟩
    · exact ⟨list, fun _ _ => rfl, exec_of_alignedWord hr rfl rfl ⟨rfl, rfl⟩⟩
    · exact ⟨_, fun _ => othersMask_getLsbD s.cfg v.toNat, exec_of_alignedWord hr rfl rfl ⟨rfl, rfl⟩⟩
    · exact ⟨_, fun _ => selfMask_getLsbD v.toNat, exec_of_alignedWord hr rfl rfl ⟨rfl, rfl⟩⟩
  exact ⟨M, hmask, hexec.trans (congrArg _ (sgiFanOut_eq _ _ _ _))⟩

/-- Settles O33: dispatch lets the aligned word through to the diagnostic and its reply. -/
theorem sgirReservedFilter : Obligations.SgirReservedFilter := fun _ _ _ hr =>
  exec_of_alignedWord hr rfl rfl ⟨rfl, rfl⟩

end Sys2Proof.Machine

/-! ## The test of one target (R235) -/

namespace Sys2Proof.Machine

theorem badTarget_eq_false_iff (s : State) (j : Nat) :
    badTarget s j = false ↔ j < s.cfg.nvcpu ∧ (s.vcpuAt j).created = true ∧ (s.envAt j).online = true := by
  simp only [badTarget, Bool.not_eq_false', Bool.and_eq_true, decide_eq_true_iff, and_assoc]

section
variable {s : State} {m : Byte} {j : Nat} (hj : lowestBit m = some j) (acc cp : Option Nat) (id : Nat)

include hj

/-- The lowest target left is skipped with a diagnostic where it fails the test. -/
theorem taskStep_fanOut_of_bad (hbad : badTarget s j = true) :
    taskStep ⟨acc, cp, .none, .fanOut m id⟩ s =
      (s.emit (.diagBadTarget j), ⟨acc, cp, .none, .fanOut (clearBit m j) id⟩) := by
  simp only [taskStep, workStep, hj, hbad, if_true]

/-- The lowest target left is given its injection next where it passes the test. -/
theorem taskStep_fanOut_of_good (hgood : badTarget s j = false) :
    taskStep ⟨acc, cp, .none, .fanOut m id⟩ s = (s, ⟨acc, cp, .link j id, .fanOut (clearBit m j) id⟩) := by
  simp only [taskStep, workStep, hj, hgood, Bool.false_eq_true, if_false]

end

/-- Settles O40: the lowest target is tested, and either way it is done with. -/
theorem sgiTargetStep : Obligations.SgiTargetStep := by
  intro s k id j m acc cp htask hbit hlow
  have hj : lowestBit m = some j := (lowestBit_eq_some m j).2 ⟨hbit, hlow⟩
  obtain ⟨ts, rs, hadvance, hleaves⟩ := advance_leaves htask
  rw [← badTarget_eq_false_iff]
  cases htest : badTarget s j with
  | true =>
    rw [taskStep_fanOut_of_bad hj acc cp id htest] at hadvance hleaves
    exact ⟨_, hadvance, rfl, nofun, fun _ => ⟨rfl, hleaves⟩⟩
  | false =>
    rw [taskStep_fanOut_of_good hj acc cp id htest] at hadvance hleaves
    exact ⟨_, hadvance, rfl, fun _ => ⟨rfl, hleaves⟩, fun h => absurd rfl h⟩

end Sys2Proof.Machine

/-! ## The injection of a target (R236, 43_enable_disable.md R192) -/

namespace Sys2Proof.Machine

theorem taskStep_link (s : State) (acc cp : Option Nat) (v L : Nat) (w : Work) :
    taskStep ⟨acc, cp, .link v L, w⟩ s =
      ((injectLink v L s).1, ⟨acc, cp, if (injectLink v L s).2 then .notify v else .none, w⟩) := rfl

/-- Steps 1 to 4 of an injection begin and end no operation. -/
theorem injectLink_tasks (v L : Nat) (s : State) : (injectLink v L s).1.tasks = s.tasks := by
  rcases injectLink_cases v L s with ⟨_, _, h⟩ | ⟨_, _, h⟩ | ⟨_, _, h⟩ <;> rw [h] <;> rfl

/-- Settles O41: the port and the operation both run steps 1 to 4, and step 5 is left to both or to neither. -/
theorem operationsRunTheInjectionEngine : Obligations.OperationsRunTheInjectionEngine := by
  intro s k v L acc cp w htask hready
  obtain ⟨ts, rs, hadvance, hleaves⟩ := advance_leaves htask
  rw [taskStep_link] at hadvance hleaves
  refine ⟨_, _, hadvance, portInject_of_ready hready cp, ?_, ?_⟩
  · rw [State.begin_frame]
  · cases hnotify : (injectLink v L s).2 with
    | true =>
      rw [hnotify] at hleaves
      exact .inl ⟨congrArg (· ++ _) (injectLink_tasks v L s), hleaves⟩
    | false =>
      rw [hnotify] at hleaves
      exact .inr ⟨injectLink_tasks v L s, hleaves⟩

end Sys2Proof.Machine

/-! # The ports, the life cycle and the history (46_ports_lifecycle.md)

A step at each input that is no access, the creation and the end of a domain and of a vCPU, the collaborator ports and
the environment moves, and what every step leaves of the history. -/

/-! ## A step at a port call, an environment move or a choice of interleaving (log 3 to 5) -/

namespace Sys2Proof.Machine

section

variable {s : State} {rest : List Input}

theorem step_of_port {op : PortOp} (hinputs : s.inputs = .port op :: rest) :
    step s = settle { s with inputs := rest } (portStep op { s with inputs := rest }) := by
  rw [← State.popInput_of_cons hinputs]
  simp only [step, hinputs]

theorem step_of_env {m : EnvMove} (hinputs : s.inputs = .env m :: rest) :
    step s = settle { s with inputs := rest } (envStep m { s with inputs := rest }) := by
  rw [← State.popInput_of_cons hinputs]
  simp only [step, hinputs]

theorem step_of_resume {k : Nat} (hinputs : s.inputs = .resume k :: rest) :
    step s = advance k { s with inputs := rest } := by
  rw [← State.popInput_of_cons hinputs]
  simp only [step, hinputs]

theorem step_of_await (hinputs : s.inputs = .await :: rest) :
    step s = if s.tasks = [] then .next { s with inputs := rest } else advance 0 s := by
  rw [← State.popInput_of_cons hinputs]
  simp only [step, hinputs, awaitStep]

theorem step_of_no_input (hinputs : s.inputs = []) :
    step s = if s.tasks = [] then .next s else advance 0 s := by
  simp only [step, hinputs, idleStep]

/-- A step that settles an answer takes the state it carries, or notes the refusal (log 5). -/
theorem step_of_settle {u : State} {r : Result} (h : step s = settle u r) :
    (∀ t, r = .next t → step s = .next t) ∧
    ∀ c, r = .refused (.port c) → step s = .next { u with refusals := u.refusals ++ [c] } := by
  constructor
  · rintro t rfl
    exact h
  · rintro c rfl
    exact h

end

/-- Settles O10: the head of the stream selects the clause. -/
theorem stepServesTheOtherInputs : Obligations.StepServesTheOtherInputs := fun _ _ =>
  ⟨fun _ hinputs => step_of_settle (step_of_port hinputs), fun _ hinputs => step_of_settle (step_of_env hinputs),
    fun _ => step_of_resume, step_of_await, step_of_no_input⟩

end Sys2Proof.Machine

/-! ## The creation of a domain (R254, 70_reset_and_hazards.md R330) -/

namespace Sys2Proof.Machine

theorem portCreateDomain_of_ready {c : Config} {s : State} (hphase : s.phase = .absent) (hc : c.valid = true) :
    portCreateDomain c s = .next { State.created c with inputs := s.inputs, refusals := s.refusals } := by
  simp [portCreateDomain, hphase, hc]

@[simp] theorem State.created_envAt (c : Config) (v : Nat) : (State.created c).envAt v = VcpuEnv.initial := by
  simp only [State.envAt, State.created, List.getD_eq_getElem?_getD, List.getElem?_replicate]
  split <;> rfl

/-- Settles O42: every look-up in a new domain gives the zero record or the initial environment, in range or not. -/
theorem createdDomainValues : Obligations.CreatedDomainValues := by
  refine ⟨fun c s => ⟨fun ⟨hphase, hc⟩ => portCreateDomain_of_ready hphase hc, portCreateDomain_of_not_ready⟩, rfl,
    fun c => ⟨rfl, rfl, rfl, rfl, rfl, rfl, State.created_rankAt c, State.created_desc c, fun v => ⟨?_, ?_, ?_⟩⟩⟩
  · exact State.created_inflight c v
  · rw [State.created_vcpuAt]
    rfl
  · exact State.created_envAt c v

end Sys2Proof.Machine

/-! ## The creation of a vCPU (R255, 70_reset_and_hazards.md R331) -/

namespace Sys2Proof.Machine

theorem portCreateVcpu_of_ready {s : State} {v : Nat} (hphase : s.phase = .live) (hterminated : s.terminated = false)
    (hv : v < s.cfg.nvcpu) (hc : (s.vcpuAt v).created = false) :
    portCreateVcpu v s = .next (s.setVcpu v (VcpuState.fresh v)) := by
  simp [portCreateVcpu, hphase, hterminated, hv, hc]

/-- A word of an array of equal bytes has that byte in each lane (40_rank_store.md R107). -/
theorem lane_pack_replicate (b : Byte) {w k : Nat} (hw : w < 8) (hk : k < 4) :
    lane (pack (Vector.replicate 32 b) w) k = b := by
  have hlt : 4 * w + k < 32 := by omega
  rw [pack_lane _ _ _ hk]
  simp [Vector.getD, hlt]

/-- The word `0x01010101 << v` has the mask `1 << v` in each lane, for the vCPU ids a mask can name. -/
theorem lane_ones_shiftLeft : ∀ v < 8, ∀ k < 4, lane (0x01010101#32 <<< v) k = 1#8 <<< v := by decide

/-- The ITARGETSR words of a new vCPU (R331): the mask that names it alone, four times. -/
theorem pack_target_ofVcpu (v : Nat) {w : Nat} (hw : w < 8) :
    pack (Rank.ofVcpu v).target w = if v < 8 then 0x01010101#32 <<< v else 0#32 := by
  refine eq_of_lanes fun k hk => (lane_pack_replicate _ hw hk).trans ?_
  split
  next hv => exact (lane_ones_shiftLeft v hv k hk).symm
  next hv =>
    rw [BitVec.shiftLeft_eq_zero (Nat.le_of_not_lt hv)]
    simp [lane]

/-- Settles O43: the record of the new vCPU is replaced by the fresh one, and no other is touched. -/
theorem createVcpuValues : Obligations.CreateVcpuValues := by
  intro s v hsized
  refine ⟨fun ⟨hphase, hterminated, hv, hc⟩ => ?ready, portCreateVcpu_of_not_ready⟩
  have hlen : v < s.vcpu.length := by
    obtain ⟨-, -, hvcpu, -⟩ := hsized
    omega
  refine ⟨_, portCreateVcpu_of_ready hphase hterminated hv hc, rfl, fun u hu => ?others, ?record, fun w hw => ?words⟩
  case others => rw [State.vcpuAt_setVcpu, if_neg fun h => hu h.1.symm]
  case record =>
    rw [State.vcpuAt_setVcpu, if_pos ⟨rfl, hlen⟩]
    rfl
  case words =>
    rw [State.rankAt_setVcpu v _ hlen, if_pos ⟨rfl, rfl⟩]
    exact pack_target_ofVcpu v hw

end Sys2Proof.Machine

/-! ## The teardown of a vCPU (R256, 70_reset_and_hazards.md R336) -/

namespace Sys2Proof.Machine

section

variable {s : State} {v : Nat}

theorem portDestroyVcpu_of_idle (hready : s.vcpuRefusal v = none) (htasks : s.tasks = []) :
    portDestroyVcpu v s = .next (s.teardown v) := by
  simp only [portDestroyVcpu, hready, if_pos htasks]
  rfl

theorem portDestroyVcpu_of_busy (hready : s.vcpuRefusal v = none) (htasks : s.tasks ≠ []) :
    portDestroyVcpu v s = .refused (.port .inProgress) := by
  simp only [portDestroyVcpu, hready, if_neg htasks]

end

/-- Settles O44: with nothing in progress the call is the teardown, whose reads give the clauses. -/
theorem destroyVcpuReleases : Obligations.DestroyVcpuReleases := by
  intro s v hsized
  refine ⟨fun h => ?ready, portDestroyVcpu_of_not_ready⟩
  have hready := (s.vcpuRefusal_eq_none v).2 h
  have hlen : v < s.vcpu.length := by
    obtain ⟨-, -, hvcpu, -⟩ := hsized
    omega
  refine ⟨portDestroyVcpu_of_busy hready, fun htasks =>
    ⟨_, portDestroyVcpu_of_idle hready htasks, rfl, fun u hu => ?others, ?record, fun u L hL _ => ?lines⟩⟩
  case others => rw [State.teardown_vcpuAt hlen, if_neg hu]
  case record =>
    rw [State.teardown_vcpuAt hlen, if_pos rfl]
    rfl
  case lines =>
    rw [State.teardown_desc hlen, if_neg (Nat.not_lt.2 hL)]
    rfl

end Sys2Proof.Machine

/-! ## The end of a domain (R257) -/

namespace Sys2Proof.Machine

section

variable {s : State}

theorem portDestroyDomain_of_idle (hphase : s.phase = .live) (htasks : s.tasks = []) :
    portDestroyDomain s = .next { s with phase := .destroyed } := by
  simp [portDestroyDomain, hphase, htasks]

theorem portDestroyDomain_of_busy (hphase : s.phase = .live) (htasks : s.tasks ≠ []) :
    portDestroyDomain s = .refused (.port .inProgress) := by
  simp [portDestroyDomain, hphase, htasks]

theorem exec_of_not_live (hphase : s.phase ≠ .live) (i : Instr) : exec i s = .refused (.port .noDomain) := by
  have hrefusal : s.accessRefusal i.accessor.toNat = some .noDomain := by
    simp [State.accessRefusal, State.vcpuRefusal, hphase]
  simp only [exec_eq_access, access, hrefusal]

theorem envStep_of_not_live (hphase : s.phase ≠ .live) (m : EnvMove) :
    envStep m s = .refused (.port .noDomain) := by
  simp only [envStep, if_pos hphase]

/-- After the end of the domain every port operation is refused, a second `CreateDomain` too (log 12). -/
theorem portStep_of_destroyed (hphase : s.phase = .destroyed) (op : PortOp) :
    ∃ c, portStep op s = .refused (.port c) := by
  have hline : ∀ v L, ¬ s.LineReady v L := by simp [State.LineReady, hphase]
  cases op with
  | inject v L => exact portInject_of_not_ready (hline v L)
  | ciVisible u L b => rw [portStep, portVisible]; exact collaborator_of_not_ready (hline u L)
  | ciActive u L b => rw [portStep, portActive]; exact collaborator_of_not_ready (hline u L)
  | ciRetire u L => rw [portStep, portRetire]; exact collaborator_of_not_ready (hline u L)
  | createDomain => exact portCreateDomain_of_not_ready (by simp [hphase])
  | createVcpu => exact portCreateVcpu_of_not_ready (by simp [hphase])
  | destroyVcpu => exact portDestroyVcpu_of_not_ready (by simp [hphase])
  | destroyDomain => exact ⟨.noDomain, by simp [portStep, portDestroyDomain, hphase]⟩

end

/-- Settles O45: a live domain ends when idle, and the precondition of every call fails in a destroyed one. -/
theorem destroyDomainEnds : Obligations.DestroyDomainEnds := by
  refine ⟨fun s hphase => ⟨portDestroyDomain_of_idle hphase, portDestroyDomain_of_busy hphase⟩, fun s hphase => ?_⟩
  have hdead : s.phase ≠ .live := by simp [hphase]
  exact ⟨exec_of_not_live hdead, envStep_of_not_live hdead, portStep_of_destroyed hphase⟩

end Sys2Proof.Machine

/-! ## The collaborator ports (R251 to R253) -/

namespace Sys2Proof.Machine

/-- The state after the collaborator retired line `L` of vCPU `u` (R253). -/
def State.retireLine (s : State) (u L : Nat) : State :=
  (s.setInflight u ((s.inflight u).erase L)).setDesc u L (s.desc u L).retire

section

variable {s : State} {u L : Nat}

theorem collaborator_of_linked (hready : s.LineReady u L) (hlink : (s.desc u L).linked = some u)
    (f : State → State) : collaborator u L f s = .next (f s) := by
  simp only [collaborator, (State.lineRefusal_eq_none s u L).2 hready, if_pos hlink]

theorem collaborator_of_not_linked (hready : s.LineReady u L) (hlink : (s.desc u L).linked ≠ some u)
    (f : State → State) : collaborator u L f s = .refused (.port .notLinked) := by
  simp only [collaborator, (State.lineRefusal_eq_none s u L).2 hready, if_neg hlink]

/-- The three collaborator ports differ in what they perform only. -/
theorem portStep_eq_collaborator {b : Bool} {op : PortOp}
    (hop : op ∈ [PortOp.ciVisible u L b, .ciActive u L b, .ciRetire u L]) :
    ∃ f, portStep op = collaborator u L f := by
  simp only [List.mem_cons, List.not_mem_nil, or_false] at hop
  rcases hop with rfl | rfl | rfl <;> exact ⟨_, rfl⟩

theorem portVisible_of_linked (hready : s.LineReady u L) (hlink : (s.desc u L).linked = some u) (b : Bool) :
    portVisible u L b s = .next (s.setDesc u L ((s.desc u L).setVisible b)) :=
  collaborator_of_linked hready hlink _

theorem portActive_of_linked (hready : s.LineReady u L) (hlink : (s.desc u L).linked = some u) (b : Bool) :
    portActive u L b s = .next (s.setDesc u L ((s.desc u L).setActive b)) :=
  collaborator_of_linked hready hlink _

theorem portRetire_of_linked (hready : s.LineReady u L) (hlink : (s.desc u L).linked = some u) :
    portRetire u L s = .next (s.retireLine u L) :=
  collaborator_of_linked hready hlink _

/-- What a report of the collaborator writes: the one descriptor, and nothing else (R251, R252). -/
theorem State.setDesc_writes (hsized : s.Sized) (hu : u < s.cfg.nvcpu) (hL : L < s.cfg.nlines) (d : Descriptor) :
    s.OnlyLine (s.setDesc u L d) u L u ∧ (s.setDesc u L d).inflight u = s.inflight u ∧
      (s.setDesc u L d).desc u L = d :=
  ⟨s.setDesc_onlyLine u L d u, s.inflight_setDesc u u L d,
    (State.desc_setDesc_of_sized hsized hu hL d u L).trans (if_pos ⟨rfl, fun _ => rfl⟩)⟩

/-- What retiring a line writes: its descriptor and the list it leaves (R253). -/
theorem State.retireLine_writes (hinv : s.Inv) (hu : u < s.cfg.nvcpu) (hL : L < s.cfg.nlines) :
    s.OnlyLine (s.retireLine u L) u L u ∧
      (s.retireLine u L).inflight u = (s.inflight u).filter (fun x => x ≠ L) ∧
      (s.retireLine u L).desc u L = (s.desc u L).retire := by
  obtain ⟨-, hsized, hlinkage, -⟩ := hinv
  have hsized' : ∀ l, (s.setInflight u l).Sized := fun l => by simpa [State.Sized] using hsized
  have herase : (s.inflight u).erase L = (s.inflight u).filter (fun x => x ≠ L) := by
    rw [(hlinkage.1 u hu).1.erase_eq_filter]
    exact List.filter_congr fun x _ => Bool.eq_iff_iff.2 (by simp)
  obtain ⟨hframe, hlist, hdesc⟩ := State.setDesc_writes (hsized' ((s.inflight u).erase L)) hu hL (s.desc u L).retire
  refine ⟨(s.setInflight_onlyLine u L u _).trans hframe, hlist.trans ?_, hdesc⟩
  rw [State.inflight_setInflight_of_sized hsized hu, if_pos rfl, herase]

end

/-- Settles O46: each port writes the descriptor of the line, `CI_Retire` the list too; the refusals are those of a
collaborator call. -/
theorem collaboratorPorts : Obligations.CollaboratorPorts := by
  intro s u L hinv
  have ⟨_, hsized, _⟩ := hinv
  refine ⟨fun ⟨hready, hlink⟩ => ?linked, fun ⟨hready, hlink⟩ b op hop => ?unlinked, fun hready b op hop => ?notReady⟩
  case linked =>
    have ⟨_, _, hu, _, hL⟩ := hready
    refine ⟨fun b => ?visible, fun b => ?active, ?retire⟩
    case visible =>
      obtain ⟨hframe, hlist, hdesc⟩ := State.setDesc_writes hsized hu hL ((s.desc u L).setVisible b)
      exact ⟨_, portVisible_of_linked hready hlink b, hframe, hlist, hdesc, rfl, rfl, rfl⟩
    case active =>
      obtain ⟨hframe, hlist, hdesc⟩ := State.setDesc_writes hsized hu hL ((s.desc u L).setActive b)
      exact ⟨_, portActive_of_linked hready hlink b, hframe, hlist, hdesc, rfl, rfl, rfl⟩
    case retire =>
      obtain ⟨hframe, hlist, hdesc⟩ := State.retireLine_writes hinv hu hL
      exact ⟨_, portRetire_of_linked hready hlink, hframe, hlist, hdesc, rfl, rfl, rfl⟩
  case unlinked =>
    obtain ⟨f, hf⟩ := portStep_eq_collaborator hop
    rw [hf]
    exact collaborator_of_not_linked hready hlink f
  case notReady =>
    obtain ⟨f, hf⟩ := portStep_eq_collaborator hop
    rw [hf]
    exact collaborator_of_not_ready hready

end Sys2Proof.Machine

/-! ## The environment moves (R258) -/

namespace Sys2Proof.Machine

theorem State.envAt_setEnv {s : State} {v : Nat} (hv : v < s.env.length) (e : VcpuEnv) (u : Nat) :
    (s.setEnv v e).envAt u = if u = v then e else s.envAt u := by
  simp only [State.envAt, State.setEnv_env, List.getD_eq_getElem?_getD, List.getElem?_set]
  by_cases hu : u = v
  · simp [hu, hv]
  · simp [hu, Ne.symm hu]

section

variable {s : State} {m : EnvMove}

theorem envStep_of_allowed (hphase : s.phase = .live) (hv : m.vcpu < s.cfg.nvcpu) (hm : m.allowed s.cfg = true) :
    envStep m s = .next (s.setEnv m.vcpu (m.apply (s.envAt m.vcpu))) := by
  simp [envStep, hphase, hv, hm]

theorem envStep_of_not_allowed (hphase : s.phase = .live) (hm : m.allowed s.cfg = false) :
    envStep m s = .refused (.port .badEnvironment) := by
  simp [envStep, hphase, hm]

end

/-- A vCPU may be moved to no processor, or to one of `PROC`. -/
theorem EnvMove.allowed_running (c : Config) (v : Nat) (p : Option Nat) :
    (EnvMove.running v p).allowed c = true ↔ ∀ q ∈ p, q ∈ c.proc := by
  cases p <;> simp [EnvMove.allowed]

/-- Settles O47: each move names `v`, stays within `PROC`, and sets one field of the environment of `v`. -/
theorem environmentMoves : Obligations.EnvironmentMoves := by
  intro s v b p hsized hphase hv
  refine ⟨fun m e hme => ?served, fun q hq hproc => envStep_of_not_allowed hphase ?outside⟩
  case served =>
    have ⟨hvcpu, happly, hm⟩ : m.vcpu = v ∧ m.apply (s.envAt v) = e ∧ m.allowed s.cfg = true := by
      simp only [List.mem_cons, List.not_mem_nil, or_false, Prod.mk.injEq] at hme
      rcases hme with (⟨rfl, rfl⟩ | ⟨rfl, rfl⟩ | ⟨rfl, rfl⟩) | ⟨⟨rfl, rfl⟩, hproc⟩
      · exact ⟨rfl, rfl, rfl⟩
      · exact ⟨rfl, rfl, rfl⟩
      · exact ⟨rfl, rfl, rfl⟩
      · exact ⟨rfl, rfl, (EnvMove.allowed_running s.cfg v p).2 hproc⟩
    subst hvcpu happly
    have hlen : m.vcpu < s.env.length := by
      obtain ⟨-, -, -, henv⟩ := hsized
      omega
    refine ⟨_, envStep_of_allowed hphase hv hm, rfl, ?_, fun u hu => ?_⟩
    · rw [State.envAt_setEnv hlen, if_pos rfl]
    · rw [State.envAt_setEnv hlen, if_neg hu]
  case outside =>
    rw [Bool.eq_false_iff, Ne, EnvMove.allowed_running]
    exact fun h => hproc (h q hq)

end Sys2Proof.Machine

/-! ## The history, the replies and the parameters (10_state.md R34, 00_scope.md R7) -/

namespace Sys2Proof.Machine

/-- No event of the list clears the queues of a vCPU (R259). -/
def NoClearAll (es : List Event) : Prop := ∀ v, Event.piClearAll v ∉ es

theorem NoClearAll.nil : NoClearAll [] := fun _ => List.not_mem_nil

theorem NoClearAll.cons {e : Event} {es : List Event} (he : ∀ v, e ≠ .piClearAll v) (hes : NoClearAll es) :
    NoClearAll (e :: es) := fun v hmem => by
  rcases List.mem_cons.1 hmem with h | h
  · exact he v h.symm
  · exact hes v h

theorem NoClearAll.append {es es' : List Event} (h : NoClearAll es) (h' : NoClearAll es') : NoClearAll (es ++ es') :=
  fun v hmem => (List.mem_append.1 hmem).elim (h v) (h' v)

theorem physEvents_noClearAll (c : Config) (v L : Nat) (e : Nat → Event) (he : ∀ p w, e p ≠ .piClearAll w) :
    NoClearAll (physEvents c v L e) := by
  simp only [physEvents]
  split
  · exact .cons (he _) .nil
  · exact .nil

theorem reraiseEvents_noClearAll (d : Descriptor) (L : Nat) : NoClearAll (reraiseEvents d L) := by
  simp only [reraiseEvents]
  split
  · split
    · exact .nil
    · exact .cons nofun .nil
  · exact .nil

theorem enableEvents_noClearAll (v L : Nat) (s : State) : NoClearAll (enableEvents v L s) := by
  refine (physEvents_noClearAll s.cfg v L .piEnablePhys nofun).append ?_
  split
  · exact .nil
  · exact reraiseEvents_noClearAll _ _

theorem notifyEvents_noClearAll (v : Nat) (cp : Option Nat) (s : State) : NoClearAll (notifyEvents v cp s) := by
  refine NoClearAll.append ?_ ?_
  · split
    · split
      · exact .nil
      · exact .cons nofun .nil
    · exact .nil
  · split
    · exact .cons nofun .nil
    · exact .nil

/-- `t` is the domain of `s` later on: it exists if `s` did and has the parameters of `s`, and its history and its
replies begin with those of `s`, with no `PI_ClearAll` added. -/
def State.Continues (s t : State) : Prop :=
  (s.phase ≠ .absent → t.phase ≠ .absent) ∧ t.cfg = s.cfg ∧
  (∃ es, t.history = s.history ++ es ∧ NoClearAll es) ∧ ∃ rs, t.replies = s.replies ++ rs

section

variable {s t u : State}

theorem State.Continues.refl (s : State) : s.Continues s :=
  ⟨id, rfl, ⟨[], (List.append_nil _).symm, .nil⟩, ⟨[], (List.append_nil _).symm⟩⟩

theorem State.Continues.trans (h : s.Continues t) (h' : t.Continues u) : s.Continues u := by
  obtain ⟨hphase, hcfg, ⟨es, hhistory, hes⟩, rs, hreplies⟩ := h
  obtain ⟨hphase', hcfg', ⟨es', hhistory', hes'⟩, rs', hreplies'⟩ := h'
  refine ⟨hphase' ∘ hphase, hcfg'.trans hcfg, ⟨es ++ es', ?_, hes.append hes'⟩, rs ++ rs', ?_⟩
  · rw [hhistory', hhistory, List.append_assoc]
  · rw [hreplies', hreplies, List.append_assoc]

theorem State.Continues.emitAll (h : s.Continues t) {es : List Event} (hes : NoClearAll es) :
    s.Continues (t.emitAll es) := by
  obtain ⟨hphase, hcfg, ⟨es', hhistory, hes'⟩, hreplies⟩ := h
  refine ⟨hphase, hcfg, ⟨es' ++ es, ?_, hes'.append hes⟩, hreplies⟩
  rw [State.emitAll_history, hhistory, List.append_assoc]

theorem State.Continues.emit (h : s.Continues t) {e : Event} (he : ∀ v, e ≠ .piClearAll v) :
    s.Continues (t.emit e) :=
  h.emitAll (.cons he .nil)

theorem State.Continues.reply (h : s.Continues t) (v : Nat) (x : AccessResult) : s.Continues (t.reply v x) := by
  obtain ⟨hphase, hcfg, hhistory, rs, hreplies⟩ := h
  refine ⟨hphase, hcfg, hhistory, rs ++ [⟨v, x⟩], ?_⟩
  rw [State.reply_replies, hreplies, List.append_assoc]

/-- The Fatal outcome is an event and a reply (60_exceptions.md R301). -/
theorem State.Continues.fatal (h : s.Continues t) (v : Nat) : s.Continues (t.fatal v) :=
  (h.emit (e := .domainCrash) nofun).reply v .fatal

/-- Completing an operation returns at most a reply (R261). -/
theorem State.Continues.complete (h : s.Continues t) (x : Task) : s.Continues (t.complete x) := by
  simp only [State.complete]
  split
  · exact h.reply _ _
  · exact h

theorem State.Continues.begin (h : s.Continues t) (x : Task) : s.Continues (t.begin x) := by
  rcases t.begin_cases x with ⟨-, e⟩ | ⟨-, e⟩ <;> rw [e]
  · exact h.complete x
  · exact h

theorem State.Continues.putTask (h : s.Continues t) (k : Nat) (x : Task) : s.Continues (t.putTask k x) := by
  have hleft : s.Continues { t with tasks := t.tasks.eraseIdx k } := h
  rcases t.putTask_cases k x with ⟨-, e⟩ | ⟨-, e⟩ <;> rw [e]
  · exact hleft.complete x
  · exact h

end

/-! ### The operations in progress -/

theorem injectLink_continues (v L : Nat) (s : State) : s.Continues (injectLink v L s).1 := by
  rcases injectLink_cases v L s with ⟨u, -, e⟩ | ⟨-, -, e⟩ | ⟨-, -, e⟩ <;> rw [e]
  · exact State.Continues.emit (t := s.setDesc v L (s.desc v L).retrigger) (.refl s) nofun
  · exact .refl s
  · have hraise : s.Continues (injectRaise v L s) := by
      refine State.Continues.emitAll (t := s.setDesc v L ((s.desc v L).snapshot (s.priorityOf v L))) (.refl s) ?_
      split
      · exact .cons nofun .nil
      · exact .nil
    exact hraise

theorem enableStep_continues (v L : Nat) (s : State) : s.Continues (enableStep v L s).1 := by
  rw [enableStep_eq]
  exact State.Continues.emitAll (t := s.setDesc v L (s.desc v L).enable) (.refl s) (enableEvents_noClearAll v L s)

theorem disableStep_continues (v L : Nat) (s : State) : s.Continues (disableStep v L s) := by
  simp only [disableStep]
  refine State.Continues.emitAll ?_ (.cons nofun (physEvents_noClearAll s.cfg v L .piDisablePhys nofun))
  split <;> exact .refl s

theorem taskStep_continues (x : Task) (s : State) : s.Continues (taskStep x s).1 := by
  rcases taskStep_cases x s with ⟨v, L, -, e⟩ | ⟨v, -, e⟩ | ⟨-, ⟨v, _, n, i, -, -, e⟩ | ⟨v, _, n, i, -, -, e⟩ |
    ⟨_, _, j, -, -, -, e⟩ | ⟨_, _, _, -, -, -, e⟩ | ⟨-, e⟩⟩ <;> rw [e]
  · exact injectLink_continues v L s
  · exact (State.Continues.refl s).emitAll (notifyEvents_noClearAll v x.cp s)
  · exact enableStep_continues v _ s
  · exact disableStep_continues v _ s
  · exact (State.Continues.refl s).emit nofun
  · exact .refl s
  · exact .refl s

theorem advance_continues {k : Nat} {s t : State} (h : advance k s = .next t) : s.Continues t := by
  obtain ⟨x, -, rfl⟩ := advance_next h
  exact (taskStep_continues x s).putTask k _

/-! ### Accesses, ports and environment moves -/

/-- The rank phase of an access writes neither the history nor the replies (70_reset_and_hazards.md R341). -/
theorem rankPhase_continues (i : Instr) (s : State) : s.Continues (rankPhase i s) := by
  rcases rankPhase_cases i s with e | ⟨r, R, e⟩ <;> rw [e] <;> exact .refl s

theorem dispatchSgi_continues (v : Nat) (val : Word) (s : State) : s.Continues (dispatchSgi v val s) := by
  rcases dispatchSgi_cases v val s with ⟨m, id, e⟩ | e <;> rw [e]
  · exact (State.Continues.refl s).begin _
  · exact ((State.Continues.refl s).emit (e := .diagBadFilter val) nofun).reply v .handled

/-- After its rank phase an access returns an outcome, or begins an operation; an SGI write may report a bad filter
(45_sgi.md R234). -/
theorem performed_continues (i : Instr) (s : State) : s.Continues (performed i s) := by
  cases i
  case wrIsenabler n a => exact (rankPhase_continues (.wrIsenabler n a) s).begin _
  case wrIcenabler n a => exact (rankPhase_continues (.wrIcenabler n a) s).begin _
  case wrIcactiver n a => exact (rankPhase_continues (.wrIcactiver n a) s).reply _ _
  case wrIpriorityr n a => exact (rankPhase_continues (.wrIpriorityr n a) s).reply _ _
  case wrItargetsr n a => exact (rankPhase_continues (.wrItargetsr n a) s).reply _ _
  case wrIcfgr n a => exact (rankPhase_continues (.wrIcfgr n a) s).reply _ _
  case wrSgir a => exact dispatchSgi_continues a.v.toNat a.val s
  case wrSgirList => exact (State.Continues.refl s).begin _
  case wrSgirOthers => exact (State.Continues.refl s).begin _
  case wrSgirSelf => exact (State.Continues.refl s).begin _
  case wrSgirRsvd v val => exact ((State.Continues.refl s).emit (e := .diagBadFilter val) nofun).reply v.toNat .handled
  all_goals exact (State.Continues.refl s).reply _ _

theorem exec_continues {i : Instr} {s t : State} (h : exec i s = .next t) : s.Continues t := by
  obtain ⟨-, ⟨-, rfl⟩ | ⟨-, -, rfl⟩ | ⟨-, -, rfl⟩⟩ := exec_next h
  · exact (State.Continues.refl s).reply _ _
  · exact (State.Continues.refl s).fatal _
  · exact performed_continues i s

/-- `CreateDomain` alone starts a history, and it has no step where there is or was a domain (R254, log 12). -/
theorem portStep_continues {op : PortOp} {s t : State} (hphase : s.phase ≠ .absent) (h : portStep op s = .next t) :
    s.Continues t := by
  cases op with
  | inject v L cp =>
    obtain ⟨-, rfl⟩ := portInject_next h
    exact (injectLink_continues v L s).begin _
  | ciVisible =>
    obtain ⟨-, -, rfl⟩ := portVisible_next h
    exact .refl s
  | ciActive =>
    obtain ⟨-, -, rfl⟩ := portActive_next h
    exact .refl s
  | ciRetire =>
    obtain ⟨-, -, rfl⟩ := portRetire_next h
    exact .refl s
  | createDomain => exact absurd (portCreateDomain_next h).1 hphase
  | createVcpu =>
    obtain ⟨-, -, -, -, rfl⟩ := portCreateVcpu_next h
    exact .refl s
  | destroyVcpu =>
    obtain ⟨-, -, rfl⟩ := portDestroyVcpu_next h
    exact .refl s
  | destroyDomain =>
    obtain ⟨-, -, rfl⟩ := portDestroyDomain_next h
    obtain ⟨-, hrest⟩ := State.Continues.refl s
    exact ⟨fun _ => nofun, hrest⟩

theorem envStep_continues {m : EnvMove} {s t : State} (h : envStep m s = .next t) : s.Continues t := by
  obtain ⟨-, -, rfl⟩ := envStep_next h
  exact .refl s

theorem step_continues {s t : State} (hphase : s.phase ≠ .absent) (h : step s = .next t) : s.Continues t :=
  step_keeps (P := s.Continues) (fun _ _ _ hs => hs) (fun _ _ _ hs h => hs.trans (advance_continues h))
    (fun _ _ _ _ _ hs h => hs.trans (exec_continues h))
    (fun _ _ _ hs h => hs.trans (portStep_continues (hs.1 hphase) h))
    (fun _ _ _ hs h => hs.trans (envStep_continues h)) (.refl s) h

/-- Settles O49: every part of a step continues the domain, and what continues a domain adds to its history. -/
theorem historyAppendOnly : Obligations.HistoryAppendOnly := by
  intro s t hphase h
  obtain ⟨-, hcfg, hhistory, hreplies⟩ := step_continues hphase h
  exact ⟨hhistory, hreplies, hcfg⟩

end Sys2Proof.Machine

/-! # The outcomes of an access (60_exceptions.md)

Which of its four outcomes an access has, and that the Fatal one alone terminates the domain. -/

/-! ## The order of the outcomes (R305) -/

namespace Sys2Proof.Machine

/-- An access that is not ready has no step (41_mmio_dispatch.md R120, log 5). -/
theorem exec_of_not_ready {i : Instr} {s : State} (h : ¬ s.Ready i.accessor.toNat) :
    ∃ c, exec i s = .refused (.port c) := by
  rw [exec_eq_access]
  exact access_of_not_ready h

/-- What dispatch lets through terminates no domain. -/
theorem performed_terminated (i : Instr) (s : State) : (performed i s).terminated = s.terminated := by
  rw [performed_frame]
  rcases rankPhase_cases i s with e | ⟨r, R, e⟩ <;> rw [e]
  rw [State.setRank_terminated]

/-- Settles O8: dispatch tests the conditions in the order of R305, and what it lets through leaves the domain live. -/
theorem outcomePrecedence : Obligations.OutcomePrecedence := by
  intro i s
  refine ⟨exec_of_not_ready, fun hready => ⟨exec_of_absent hready, exec_of_width hready, fun hp hw =>
    ⟨_, exec_of_ok hready hp hw, ?_⟩⟩⟩
  obtain ⟨-, hlive, -⟩ := hready
  rw [performed_terminated, hlive]

end Sys2Proof.Machine

/-! ## What terminates the domain (R301, 41_mmio_dispatch.md R124) -/

namespace Sys2Proof.Machine

section

variable {s t : State}

/-- Of the outcomes of an access, Fatal alone terminates the domain. -/
theorem exec_terminates {i : Instr} (h : exec i s = .next t) (ht : t.terminated = true) :
    s.Ready i.accessor.toNat ∧ s.Present i.group i.wordIndex ∧ ¬ i.group.WidthAllowed i.size i.byteLane ∧
    t = s.fatal i.accessor.toNat := by
  obtain ⟨hready, houtcome⟩ := exec_next h
  have hlive : s.terminated = false := hready.2.1
  rcases houtcome with ⟨-, rfl⟩ | ⟨hp, hw, rfl⟩ | ⟨-, -, rfl⟩
  case inl => rw [State.reply_terminated, hlive] at ht; cases ht
  case inr.inl => exact ⟨hready, hp, hw, rfl⟩
  case inr.inr => rw [performed_terminated, hlive] at ht; cases ht

theorem advance_terminated {k : Nat} (h : advance k s = .next t) : t.terminated = s.terminated := by
  rw [advance_frame h]

theorem envStep_terminated {m : EnvMove} (h : envStep m s = .next t) : t.terminated = s.terminated := by
  obtain ⟨-, -, rfl⟩ := envStep_next h
  rfl

/-- No port operation terminates the domain; a new domain is not terminated (46_ports_lifecycle.md R254). -/
theorem portStep_terminated {op : PortOp} (h : portStep op s = .next t) :
    t.terminated = s.terminated ∨ t.terminated = false := by
  cases op with
  | inject =>
    obtain ⟨-, rfl⟩ := portInject_next h
    rw [State.begin_frame, injectLink_frame]
    exact .inl rfl
  | ciVisible => obtain ⟨-, -, rfl⟩ := portVisible_next h; exact .inl rfl
  | ciActive => obtain ⟨-, -, rfl⟩ := portActive_next h; exact .inl rfl
  | ciRetire => obtain ⟨-, -, rfl⟩ := portRetire_next h; exact .inl rfl
  | createDomain => obtain ⟨-, -, rfl⟩ := portCreateDomain_next h; exact .inr rfl
  | createVcpu => obtain ⟨-, -, -, -, rfl⟩ := portCreateVcpu_next h; exact .inl rfl
  | destroyVcpu => obtain ⟨-, -, rfl⟩ := portDestroyVcpu_next h; exact .inl rfl
  | destroyDomain => obtain ⟨-, -, rfl⟩ := portDestroyDomain_next h; exact .inl rfl

/-- A step that terminates the domain serves an access. -/
theorem step_terminates (h : step s = .next t) (hs : s.terminated = false) (ht : t.terminated = true) :
    ∃ bs rest i, s.inputs = .access bs :: rest ∧ decode bs = .ok i ∧ exec i { s with inputs := rest } = .next t := by
  have hflips : t.terminated ≠ s.terminated := by simp [hs, ht]
  rcases step_next h with rfl | rfl | ⟨c, rfl⟩ | ⟨k, h | h⟩ | ⟨bs, rest, i, hinputs, hdecode, h⟩ | ⟨op, _, -, h⟩ |
    ⟨m, _, -, h⟩
  · exact absurd rfl hflips
  · exact absurd rfl hflips
  · exact absurd rfl hflips
  · exact absurd (advance_terminated h) hflips
  · exact absurd (advance_terminated h) hflips
  · exact ⟨bs, rest, i, hinputs, hdecode, State.popInput_of_cons hinputs ▸ h⟩
  · rcases portStep_terminated h with e | e
    · exact absurd e hflips
    · rw [ht] at e; cases e
  · exact absurd (envStep_terminated h) hflips

end

/-- Settles O12: dispatch answers Fatal on such a width, and of the parts of a step none but this outcome of an access
terminates the domain. -/
theorem fatalOutcome : Obligations.FatalOutcome := by
  refine ⟨fun i s => ⟨exec_of_width, fun t h ht => ?access⟩, fun s t h hs ht => ?step⟩
  case access =>
    obtain ⟨-, hp, hw, -⟩ := exec_terminates h ht
    exact ⟨hp, hw⟩
  case step =>
    obtain ⟨bs, rest, i, hinputs, hdecode, hexec⟩ := step_terminates h hs ht
    exact ⟨bs, rest, i, hinputs, hdecode, exec_terminates hexec ht⟩

end Sys2Proof.Machine

/-! # Reset and hazards (70_reset_and_hazards.md)

What the first step of an access writes, the snapshots of linked lines, the bounds of the operations in progress, and the
interleavings of an enable transition with an injection and with a disable transition. -/

/-! ## What the first step of an access writes (R341) -/

namespace Sys2Proof.Machine

/-- The rank phase writes nothing, or it is that of a write of one of six groups, and writes the rank of its word as the
accessor names it (40_rank_store.md R101). -/
theorem rankPhase_writes (i : Instr) (s : State) :
    rankPhase i s = s ∨
    ∃ b R, i.isRead = false ∧
      i.group ∈ [Group.isenabler, .icenabler, .icactiver, .ipriorityr, .itargetsr, .icfgr] ∧
      i.group.bitsPerLine = some b ∧ rankPhase i s = s.setRank i.accessor.toNat (i.wordIndex / b) R := by
  cases i
  case wrIsenabler n a => exact .inr ⟨1, _, rfl, by simp [Instr.group], rfl, by rw [Nat.div_one]; rfl⟩
  case wrIcenabler n a => exact .inr ⟨1, _, rfl, by simp [Instr.group], rfl, by rw [Nat.div_one]; rfl⟩
  case wrIcactiver n a => exact .inr ⟨1, _, rfl, by simp [Instr.group], rfl, by rw [Nat.div_one]; rfl⟩
  case wrIpriorityr n a => exact .inr ⟨8, _, rfl, by simp [Instr.group], rfl, rfl⟩
  case wrItargetsr n a => exact .inr ⟨8, _, rfl, by simp [Instr.group], rfl, rfl⟩
  case wrIcfgr n a => exact .inr ⟨2, _, rfl, by simp [Instr.group], rfl, rfl⟩
  all_goals exact .inl rfl

/-- What an access does to the records is nothing, or the one rank write of its rank phase. -/
theorem exec_writes {i : Instr} {s t : State} (h : exec i s = .next t) :
    s.SameRecords t ∨
    ∃ b R, i.isRead = false ∧
      i.group ∈ [Group.isenabler, .icenabler, .icactiver, .ipriorityr, .itargetsr, .icfgr] ∧
      i.group.bitsPerLine = some b ∧ (s.setRank i.accessor.toNat (i.wordIndex / b) R).SameRecords t := by
  obtain ⟨-, ⟨-, rfl⟩ | ⟨-, -, rfl⟩ | ⟨-, -, rfl⟩⟩ := exec_next h
  · exact .inl rfl
  · exact .inl rfl
  · rw [performed_frame]
    rcases rankPhase_writes i s with e | ⟨b, R, hread, hgroup, hb, e⟩ <;> rw [e]
    · exact .inl rfl
    · exact .inr ⟨b, R, hread, hgroup, hb, rfl⟩

/-- Settles O14: an access that writes a record has the frame of the one rank write of its rank phase. -/
theorem accessTouchesOneRank : Obligations.AccessTouchesOneRank := by
  intro i s t h
  rcases exec_writes h with e | ⟨b, R, hread, hgroup, hb, e⟩ <;> rw [e]
  · exact ⟨⟨rfl, rfl, rfl, rfl, rfl⟩, fun _ => rfl, fun _ _ hne => absurd rfl hne⟩
  · obtain ⟨-, hvcpu, hranks⟩ := s.setRank_onlyRank i.accessor.toNat (i.wordIndex / b) R
    refine ⟨⟨rfl, rfl, rfl, rfl, rfl⟩, hvcpu, fun u q hne => ?_⟩
    obtain ⟨rfl, hu⟩ := Decidable.not_not.1 (mt (hranks u q) hne)
    refine ⟨hread, hgroup, fun b' hb' => ?_, hu⟩
    rw [Option.some.inj (hb.symm.trans hb')]

end Sys2Proof.Machine

/-! ## The priority snapshots of linked lines (R350) -/

namespace Sys2Proof.Machine

/-- Every line that is linked in `s` has in `t` the priority snapshot of `s`, unless it is linked no more. -/
def State.KeepsSnapshots (s t : State) : Prop :=
  ∀ v L, (s.desc v L).linked ≠ none → (t.desc v L).linked = none ∨ (t.desc v L).prio = (s.desc v L).prio

section

variable {s t : State}

theorem State.KeepsSnapshots.of_prio_eq (h : ∀ v L, (t.desc v L).prio = (s.desc v L).prio) : s.KeepsSnapshots t :=
  fun v L _ => .inr (h v L)

theorem Descriptor.linkTo_prio (d : Descriptor) (v : Nat) : (d.linkTo v).prio = d.prio := rfl
theorem Descriptor.disable_prio (d : Descriptor) : d.disable.prio = d.prio := rfl
theorem Descriptor.retire_prio (d : Descriptor) : d.retire.prio = d.prio := rfl

/-- A descriptor write that keeps the snapshot, beside a write of a list. -/
theorem State.setInflight_setDesc_prio {v L : Nat} {d : Descriptor} (hd : d.prio = (s.desc v L).prio) (w : Nat)
    (l : List Nat) (u M : Nat) : (((s.setInflight w l).setDesc v L d).desc u M).prio = (s.desc u M).prio := by
  rw [State.setDesc_keeps Descriptor.prio (by rwa [State.desc_setInflight]), State.desc_setInflight]

/-- Inject step 4 keeps every snapshot (44_injection.md R214). -/
theorem injectInsert_prio (v L : Nat) (s : State) (w M : Nat) :
    ((injectInsert v L s).desc w M).prio = (s.desc w M).prio :=
  State.setInflight_setDesc_prio (Descriptor.linkTo_prio _ v) _ _ w M

/-- Steps 1 to 4 of an injection write the snapshot of its own line, and only where that is linked nowhere
(44_injection.md R211, R213). -/
theorem injectLink_prio (v L : Nat) (s : State) {w M : Nat} (hlink : (s.desc w M).linked ≠ none) :
    ((injectLink v L s).1.desc w M).prio = (s.desc w M).prio := by
  rcases injectLink_cases v L s with ⟨_, -, e⟩ | ⟨-, -, e⟩ | ⟨hnone, -, e⟩ <;> rw [e]
  · exact State.setDesc_keeps (d := (s.desc v L).retrigger) Descriptor.prio rfl w M
  · obtain ⟨-, -, hothers, -⟩ := injectRaise_onlyLine s v L v
    have hline : ¬ (M = L ∧ (L < 32 → w = v)) := by
      rintro ⟨rfl, hkey⟩
      exact hlink (by rwa [s.desc_eq_of_key hkey])
    rw [injectInsert_prio, hothers w M hline]

theorem enableStep_prio (v L : Nat) (s : State) (w M : Nat) :
    ((enableStep v L s).1.desc w M).prio = (s.desc w M).prio := by
  rw [enableStep_eq]
  exact State.setDesc_keeps (d := (s.desc v L).enable) Descriptor.prio rfl w M

theorem disableStep_prio (v L : Nat) (s : State) (w M : Nat) :
    ((disableStep v L s).desc w M).prio = (s.desc w M).prio := by
  simp only [disableStep, State.emitAll_desc]
  cases (s.desc v L).linked with
  | some u => exact State.setInflight_setDesc_prio (Descriptor.disable_prio _) _ _ w M
  | none => exact State.setDesc_keeps (d := (s.desc v L).disable) Descriptor.prio rfl w M

theorem taskStep_keepsSnapshots (x : Task) (s : State) : s.KeepsSnapshots (taskStep x s).1 := by
  rcases taskStep_cases x s with ⟨v, L, -, e⟩ | ⟨_, -, e⟩ | ⟨-, ⟨v, m, n, i, -, -, e⟩ | ⟨v, m, n, i, -, -, e⟩ |
    ⟨_, _, _, -, -, -, e⟩ | ⟨_, _, _, -, -, -, e⟩ | ⟨-, e⟩⟩ <;> rw [e]
  · exact fun w M hlink => .inr (injectLink_prio v L s hlink)
  · exact .of_prio_eq fun _ _ => rfl
  · exact .of_prio_eq (enableStep_prio v _ s)
  · exact .of_prio_eq (disableStep_prio v _ s)
  all_goals exact .of_prio_eq fun _ _ => rfl

theorem advance_keepsSnapshots {k : Nat} (h : advance k s = .next t) : s.KeepsSnapshots t := by
  obtain ⟨x, -, rfl⟩ := advance_next h
  rw [((taskStep x s).1.putTask_leaves k (taskStep x s).2).2]
  exact taskStep_keepsSnapshots x s

/-- A vCPU record with zero descriptors leaves every other descriptor. -/
theorem State.setVcpu_desc_zero (s : State) (v : Nat) {x : VcpuState}
    (hx : ∀ L, x.pdesc.getD L Descriptor.zero = Descriptor.zero) (w L : Nat) :
    (s.setVcpu v x).desc w L = Descriptor.zero ∨ (s.setVcpu v x).desc w L = s.desc w L := by
  by_cases hv : v < s.vcpu.length
  · rw [State.desc_setVcpu v x hv, hx]
    split
    · exact .inl rfl
    · exact .inr rfl
  · rw [State.setVcpu, List.set_eq_of_length_le (by omega)]
    exact .inr rfl

/-- The life cycle of a vCPU zeroes the descriptors of its private lines (46_ports_lifecycle.md R255, R256). -/
theorem State.KeepsSnapshots.setVcpu (h : ∀ v L, (t.desc v L).prio = (s.desc v L).prio) (v : Nat) {x : VcpuState}
    (hx : ∀ L, x.pdesc.getD L Descriptor.zero = Descriptor.zero) : s.KeepsSnapshots (t.setVcpu v x) := by
  intro w L _
  rcases t.setVcpu_desc_zero v hx w L with e | e <;> rw [e]
  · exact .inl rfl
  · exact .inr (h w L)

/-- Unlinking the shared lines of a list keeps every snapshot (R256). -/
theorem State.releaseShared_prio (s : State) (l : List Nat) (v L : Nat) :
    (State.desc { s with spi := releaseShared s.spi l } v L).prio = (s.desc v L).prio := by
  simp only [State.desc, State.vcpuAt, releaseShared_getD]
  split
  · rfl
  · split <;> rfl

theorem portStep_keepsSnapshots {op : PortOp} (h : portStep op s = .next t) : s.KeepsSnapshots t := by
  cases op with
  | inject v L cp =>
    obtain ⟨-, rfl⟩ := portInject_next h
    rw [State.begin_frame]
    exact fun w M hlink => .inr (injectLink_prio v L s hlink)
  | ciVisible u L b =>
    obtain ⟨-, -, rfl⟩ := portVisible_next h
    exact .of_prio_eq (State.setDesc_keeps Descriptor.prio rfl)
  | ciActive u L b =>
    obtain ⟨-, -, rfl⟩ := portActive_next h
    exact .of_prio_eq (State.setDesc_keeps Descriptor.prio rfl)
  | ciRetire u L =>
    obtain ⟨-, -, rfl⟩ := portRetire_next h
    exact .of_prio_eq (State.setInflight_setDesc_prio (Descriptor.retire_prio _) _ _)
  | createDomain c =>
    obtain ⟨-, -, rfl⟩ := portCreateDomain_next h
    exact fun v L _ => .inl (congrArg Descriptor.linked (State.created_desc c v L))
  | createVcpu v =>
    obtain ⟨-, -, -, -, rfl⟩ := portCreateVcpu_next h
    exact .setVcpu (fun _ _ => rfl) v VcpuState.absent_pdesc_getD
  | destroyVcpu v =>
    obtain ⟨-, -, rfl⟩ := portDestroyVcpu_teardown h
    exact .setVcpu (s.releaseShared_prio _) v VcpuState.absent_pdesc_getD
  | destroyDomain =>
    obtain ⟨-, -, rfl⟩ := portDestroyDomain_next h
    exact .of_prio_eq fun _ _ => rfl

/-- No part of a step writes the snapshot of a line that stays linked. -/
theorem step_keepsSnapshots (h : step s = .next t) : s.KeepsSnapshots t := by
  rcases step_next h with rfl | rfl | ⟨c, rfl⟩ | ⟨k, h | h⟩ | ⟨bs, _, i, -, -, h⟩ | ⟨op, _, -, h⟩ | ⟨m, _, -, h⟩
  · exact .of_prio_eq fun _ _ => rfl
  · exact .of_prio_eq fun _ _ => rfl
  · exact .of_prio_eq fun _ _ => rfl
  · exact advance_keepsSnapshots h
  · exact fun v L => advance_keepsSnapshots h v L
  · exact .of_prio_eq fun v L => congrArg Descriptor.prio (exec_desc h v L)
  · exact fun v L => portStep_keepsSnapshots h v L
  · obtain ⟨-, -, rfl⟩ := envStep_next h
    exact .of_prio_eq fun _ _ => rfl

end

/-- Settles O52: only an injection writes a snapshot, and only of a line that is linked nowhere. -/
theorem priorityFixedWhileLinked : Obligations.PriorityFixedWhileLinked := by
  intro s t v L u u' h hlink hlink'
  rcases step_keepsSnapshots h v L (by simp [hlink]) with hnone | hprio
  · simp [hlink'] at hnone
  · exact hprio

end Sys2Proof.Machine

/-! ## The bounds of the operations in progress (R346) -/

namespace Sys2Proof.Machine

/-! ### One operation -/

theorem holdsEvtchn_iff (c : Config) (m : Word) (n : Nat) :
    holdsEvtchn c m n = true ↔ ∃ i, m.getLsbD i = true ∧ c.evtchnLine = some (32 * n + i) := by
  simp only [holdsEvtchn, List.any_eq_true, List.mem_range, Bool.and_eq_true, beq_iff_eq]
  constructor
  · rintro ⟨i, -, h⟩; exact ⟨i, h⟩
  · rintro ⟨i, hi, h⟩; exact ⟨i, BitVec.lt_of_getLsbD hi, hi, h⟩

theorem holdsEvtchn_of_clearBit {c : Config} {m : Word} {n i : Nat} (h : holdsEvtchn c (clearBit m i) n = true) :
    holdsEvtchn c m n = true := by
  rw [holdsEvtchn_iff] at h ⊢
  obtain ⟨j, hj, hline⟩ := h
  rw [clearBit_getLsbD, Bool.and_eq_true] at hj
  exact ⟨j, hj.1, hline⟩

/-- The event-channel line is one line: with its bit served, the mask holds it no more. -/
theorem holdsEvtchn_clearBit_evtchn {c : Config} (m : Word) {n i : Nat} (hline : c.evtchnLine = some (32 * n + i)) :
    holdsEvtchn c (clearBit m i) n = false := by
  rw [← Bool.not_eq_true, holdsEvtchn_iff]
  rintro ⟨j, hj, hline'⟩
  have hji : j = i := by
    have := Option.some.inj (hline.symm.trans hline')
    omega
  simp [clearBit_getLsbD, hji] at hj

theorem bitCount_clearBit_lowestBit {w : Nat} {m : BitVec w} {i : Nat} (hi : lowestBit m = some i) :
    bitCount (clearBit m i) + 1 = bitCount m :=
  bitCount_clearBit m i ((lowestBit_eq_some m i).1 hi).1

/-- An enable step takes a bit off the mask, and its forced injection was counted in (43_enable_disable.md R192). -/
theorem enableStep_bound {v n i : Nat} {m : Word} {s : State} (hi : lowestBit m = some i) :
    (enableStep v (32 * n + i) s).2.bound + (Work.enable v (clearBit m i) n).bound s.cfg <
      (Work.enable v m n).bound s.cfg := by
  have hcount := bitCount_clearBit_lowestBit hi
  rw [enableStep_eq]
  simp only [Work.bound]
  split
  next hforced =>
    obtain ⟨hline, -⟩ := (forcesInjection_iff v _ s).1 hforced
    rw [(holdsEvtchn_iff s.cfg m n).2 ⟨i, ((lowestBit_eq_some m i).1 hi).1, hline⟩, holdsEvtchn_clearBit_evtchn m hline]
    simp only [Injection.bound, if_true, Bool.false_eq_true, if_false]
    omega
  next =>
    simp only [Injection.bound]
    by_cases h : holdsEvtchn s.cfg (clearBit m i) n = true
    · rw [if_pos h, if_pos (holdsEvtchn_of_clearBit h)]
      omega
    · rw [if_neg h]
      omega

/-- The next step of an operation that has one lowers its bound. -/
theorem taskStep_bound {x : Task} {s : State} (hx : x.isDone = false) :
    (taskStep x s).2.bound s.cfg < x.bound s.cfg := by
  simp only [Task.bound]
  rcases taskStep_cases x s with ⟨v, L, hinj, e⟩ | ⟨v, hinj, e⟩ | ⟨hinj, ⟨v, m, n, i, hw, hi, e⟩ |
    ⟨v, m, n, i, hw, hi, e⟩ | ⟨m, id, j, hw, hj, -, e⟩ | ⟨m, id, j, hw, hj, -, e⟩ | ⟨hdone, -⟩⟩
  · have hnext : (if (injectLink v L s).2 then Injection.notify v else .none).bound ≤ 1 := by
      split <;> simp [Injection.bound]
    rw [e, hinj]
    simp only [Injection.bound] at hnext ⊢
    omega
  · rw [e, hinj]
    simp [Injection.bound]
  · rw [e, hinj, hw]
    have := enableStep_bound (v := v) (n := n) (s := s) hi
    simpa [Injection.bound] using this
  · have := bitCount_clearBit_lowestBit hi
    rw [e, hinj, hw]
    simp only [Injection.bound, Work.bound]
    omega
  · have := bitCount_clearBit_lowestBit hj
    rw [e, hinj, hw]
    simp only [Injection.bound, Work.bound]
    omega
  · have := bitCount_clearBit_lowestBit hj
    rw [e, hinj, hw]
    simp only [Injection.bound, Work.bound]
    omega
  · simp [Task.isDone, hinj, hdone] at hx

/-- A step of the k-th operation lowers its bound and leaves it its place, or completes it, and leaves every other
operation as it was. -/
theorem advance_bounded {k : Nat} {s : State} {x : Task} (hk : s.tasks[k]? = some x) (hx : x.isDone = false) :
    ∃ t, advance k s = .next t ∧ t.cfg = s.cfg ∧
      ((∃ y : Task, t.tasks = s.tasks.set k y ∧ y.accessor = x.accessor ∧ y.bound s.cfg < x.bound s.cfg) ∨
       t.tasks = s.tasks.eraseIdx k) := by
  obtain ⟨ts, rs, hadvance, hleaves⟩ := advance_leaves hk
  refine ⟨_, hadvance, by rw [taskStep_frame], ?_⟩
  rw [State.Leaves] at hleaves
  split at hleaves
  · exact .inr hleaves.1
  · exact .inl ⟨_, hleaves.1, taskStep_accessor x s, taskStep_bound hx⟩

/-! ### The operations an access or a port call begins -/

section

variable {s t : State}

/-- Beginning an operation adds at most that operation, with no step of any other. -/
theorem State.begin_tasks (t : State) (x : Task) : (t.begin x).tasks = t.tasks ∨ (t.begin x).tasks = t.tasks ++ [x] := by
  rcases t.begin_cases x with ⟨-, e⟩ | ⟨-, e⟩ <;> rw [e]
  · rw [State.complete_eq]; exact .inl rfl
  · exact .inr rfl

/-- `t` has the operations in progress of `s`, and at most one more, of accessor `acc` and with at most `b` steps. -/
def State.GainsBounded (s t : State) (acc : Option Nat) (b : Nat) : Prop :=
  t.tasks = s.tasks ∨ ∃ y : Task, t.tasks = s.tasks ++ [y] ∧ y.accessor = acc ∧ y.bound s.cfg ≤ b

theorem State.GainsBounded.begin {x : Task} {b : Nat} (ht : t.tasks = s.tasks) (hx : x.bound s.cfg ≤ b) :
    s.GainsBounded (t.begin x) x.accessor b :=
  (t.begin_tasks x).imp (·.trans ht) fun e => ⟨x, e.trans (by rw [ht]), rfl, hx⟩

/-- An SGI write tests eight targets at most and takes three steps for each (45_sgi.md R235, R345). -/
theorem sgiFanOut_gainsBounded (v : Nat) (m : Byte) (id : Nat) (s : State) :
    s.GainsBounded (sgiFanOut v m id s) (some v) Group.sgir.laterSteps := by
  refine State.GainsBounded.begin (x := ⟨some v, (s.envAt v).runningOn, .none, .fanOut m id⟩) rfl ?_
  have := bitCount_le m
  simp only [Task.bound, Injection.bound, Work.bound, Group.laterSteps]
  omega

/-- What dispatch lets through begins at most one operation, whose steps the group bounds: a word has 32 bits, and one of
them may force an injection (43_enable_disable.md R190 to R194). -/
theorem performed_gainsBounded (i : Instr) (s : State) :
    s.GainsBounded (performed i s) (some i.accessor.toNat) i.group.laterSteps := by
  cases i
  case wrIsenabler n a =>
    refine .begin rfl ?_
    have := bitCount_le (newlyEnabled s a.v.toNat n.toNat a.val)
    simp only [Task.bound, Injection.bound, Work.bound, Instr.group, Group.laterSteps]
    split <;> omega
  case wrIcenabler n a =>
    refine .begin rfl ?_
    have := bitCount_le (newlyDisabled s a.v.toNat n.toNat a.val)
    simp only [Task.bound, Injection.bound, Work.bound, Instr.group, Group.laterSteps]
    omega
  case wrSgirList => exact sgiFanOut_gainsBounded _ _ _ s
  case wrSgirOthers => exact sgiFanOut_gainsBounded _ _ _ s
  case wrSgirSelf => exact sgiFanOut_gainsBounded _ _ _ s
  case wrSgir a =>
    rw [performed]
    rcases dispatchSgi_cases a.v.toNat a.val s with ⟨m, id, e⟩ | e <;> rw [e]
    · exact sgiFanOut_gainsBounded _ m id.toNat s
    · exact .inl rfl
  all_goals exact .inl rfl

/-- An access drops the operations in progress when it is Fatal (log 10), and else begins one of its own at most. -/
theorem exec_bounded {i : Instr} (h : exec i s = .next t) :
    t.tasks = s.tasks ∨ (t.tasks = [] ∧ t = s.fatal i.accessor.toNat) ∨
    ∃ y : Task, t.tasks = s.tasks ++ [y] ∧ y.accessor = some i.accessor.toNat ∧
      y.bound s.cfg ≤ i.group.laterSteps := by
  obtain ⟨-, ⟨-, rfl⟩ | ⟨-, -, rfl⟩ | ⟨-, -, rfl⟩⟩ := exec_next h
  · exact .inl rfl
  · exact .inr (.inl ⟨rfl, rfl⟩)
  · exact (performed_gainsBounded i s).imp_right .inr

theorem portInject_gainsBounded {v L : Nat} {cp : Option Nat} (h : portInject v L cp s = .next t) :
    s.GainsBounded t none 1 := by
  obtain ⟨-, rfl⟩ := portInject_next h
  refine .begin (injectLink_tasks v L s) ?_
  simp only [Task.bound, Work.bound]
  split <;> simp [Injection.bound]

/-- Of the port operations `Inject` alone begins an operation. -/
theorem portStep_bounded {op : PortOp} (hidle : s.phase = .absent → s.tasks = []) (h : portStep op s = .next t) :
    t.tasks = s.tasks ∨
    ∃ (v L : Nat) (cp : Option Nat) (y : Task), op = .inject v L cp ∧ t.tasks = s.tasks ++ [y] ∧
      y.accessor = none ∧ y.bound s.cfg ≤ 1 := by
  cases op with
  | inject v L cp =>
    exact (portInject_gainsBounded h).imp_right fun ⟨y, htasks, hy⟩ => ⟨v, L, cp, y, rfl, htasks, hy⟩
  | ciVisible u L b => obtain ⟨-, -, rfl⟩ := portVisible_next h; exact .inl rfl
  | ciActive u L b => obtain ⟨-, -, rfl⟩ := portActive_next h; exact .inl rfl
  | ciRetire u L => obtain ⟨-, -, rfl⟩ := portRetire_next h; exact .inl rfl
  | createDomain c =>
    obtain ⟨hphase, -, rfl⟩ := portCreateDomain_next h
    exact .inl (hidle hphase).symm
  | createVcpu v => obtain ⟨-, -, -, -, rfl⟩ := portCreateVcpu_next h; exact .inl rfl
  | destroyVcpu v => obtain ⟨-, -, rfl⟩ := portDestroyVcpu_next h; exact .inl rfl
  | destroyDomain => obtain ⟨-, -, rfl⟩ := portDestroyDomain_next h; exact .inl rfl

/-! ### All operations together -/

theorem sum_map_eraseIdx {α : Type} (f : α → Nat) {l : List α} {k : Nat} {x : α} (hk : l[k]? = some x) :
    f x + ((l.eraseIdx k).map f).sum = (l.map f).sum := by
  obtain ⟨hlt, rfl⟩ := List.getElem?_eq_some_iff.1 hk
  simpa using ((List.getElem_cons_eraseIdx_perm hlt).map f).sum_eq

theorem sum_map_set {α : Type} (f : α → Nat) {l : List α} {k : Nat} (hk : k < l.length) (y : α) :
    ((l.set k y).map f).sum = f y + ((l.eraseIdx k).map f).sum := by
  simpa using ((List.set_perm_cons_eraseIdx hk y).map f).sum_eq

theorem State.Inv.tasksOk (h : s.Inv) : s.TasksOk := ((s.inv_iff).1 h).2

theorem State.TasksOk.not_done (h : s.TasksOk) {k : Nat} {x : Task} (hk : s.tasks[k]? = some x) : x.isDone = false :=
  ((Task.ok_iff s x).1 (h.1 x (List.mem_of_getElem? hk))).1

/-- Each step of an operation lowers the sum of the bounds. -/
theorem advance_bound (hs : s.TasksOk) {k : Nat} (h : advance k s = .next t) : t.bound < s.bound := by
  obtain ⟨x, hk, -⟩ := advance_next h
  obtain ⟨t', hadvance, hcfg, hleaves⟩ := advance_bounded hk (hs.not_done hk)
  obtain rfl : t = t' := Host.Outcome.next.inj (h.symm.trans hadvance)
  have hsum := sum_map_eraseIdx (fun x => Task.bound s.cfg x) hk
  rw [State.bound, State.bound, hcfg]
  rcases hleaves with ⟨y, e, -, hy⟩ | e <;> rw [e]
  · rw [sum_map_set _ (List.getElem?_eq_some_iff.1 hk).1]
    omega
  · have := taskStep_bound (s := s) (hs.not_done hk)
    omega

/-- With an operation in progress the oldest one can go on. -/
theorem advance_zero_of_busy (hs : s.TasksOk) (hbusy : s.tasks ≠ []) : ∃ t, advance 0 s = .next t := by
  obtain ⟨x, xs, hcons⟩ := List.exists_cons_of_ne_nil hbusy
  have hk : s.tasks[0]? = some x := by rw [hcons]; rfl
  obtain ⟨t, hadvance, -⟩ := advance_bounded hk (hs.not_done hk)
  exact ⟨t, hadvance⟩

theorem core_run_succ (h : step s = .next t) (n : Nat) : core.run (n + 1) s = core.run n t := by
  have hstep : core.step s = .next t := h
  simp only [Host.Core.run, hstep]

/-- With no further input the machine finishes every operation within any number of steps that the sum of the bounds
does not exceed: an empty stream lets the oldest one go on (log 3, 4). -/
theorem run_finishes (n : Nat) {s : State} (hs : s.Inv) (hinputs : s.inputs = []) (hn : s.bound ≤ n) :
    ∃ t : State, core.run n s = .next t ∧ t.tasks = [] := by
  induction n generalizing s with
  | zero =>
    have htasks := hs.tasksOk
    refine ⟨s, rfl, ?_⟩
    by_contra hbusy
    obtain ⟨t, hadvance⟩ := advance_zero_of_busy htasks hbusy
    have := advance_bound htasks hadvance
    omega
  | succ n ih =>
    have htasks := hs.tasksOk
    have hstep := step_of_no_input hinputs
    by_cases hidle : s.tasks = []
    · rw [if_pos hidle] at hstep
      have hzero : s.bound = 0 := by simp [State.bound, hidle]
      rw [core_run_succ hstep]
      exact ih hs hinputs (by omega)
    · obtain ⟨t, hadvance⟩ := advance_zero_of_busy htasks hidle
      rw [if_neg hidle, hadvance] at hstep
      have hlower := advance_bound htasks hadvance
      rw [core_run_succ hstep]
      refine ih (advance_inv hs hadvance) ?_ (by omega)
      rw [advance_frame hadvance]
      exact hinputs

end

/-- Settles O57: a step of an operation is counted in its bound and changes no other operation, so it lowers the sum, and
an empty stream serves operations until the sum is spent. -/
theorem operationsAreBounded : Obligations.OperationsAreBounded := by
  intro s hs
  have htasks := hs.tasksOk
  have ⟨_, _, hidle⟩ := htasks
  refine ⟨fun k x hk => advance_bounded hk (htasks.not_done hk), fun i t h => exec_bounded h,
    fun op t h => portStep_bounded (fun hphase => hidle (.inr (by simp [hphase]))) h, fun m t h => ?env,
    fun k t h => advance_bound htasks h, fun hinputs => run_finishes _ hs hinputs le_rfl⟩
  case env =>
    obtain ⟨-, -, rfl⟩ := envStep_next h
    rfl

end Sys2Proof.Machine

/-! ## An injection in the enable window (R348) -/

namespace Sys2Proof.Machine

/-- A line whose bit an enable transition still has to serve can be injected into any vCPU that exists
(44_injection.md R210). -/
theorem State.TasksOk.lineReady {s : State} (h : s.TasksOk) {k n i : Nat} {m : Word} {x : Task}
    (hk : s.tasks[k]? = some x) {v : Nat} (hw : x.work = .enable v m n) (hbit : m.getLsbD i = true) {u : Nat}
    (hu : u < s.cfg.nvcpu) (hc : (s.vcpuAt u).created = true) : s.LineReady u (32 * n + i) := by
  have hbusy : s.tasks ≠ [] := List.ne_nil_of_mem (List.mem_of_getElem? hk)
  obtain ⟨hphase, hterminated⟩ := h.live hbusy
  obtain ⟨-, -, -, hwork⟩ := (Task.ok_iff s x).1 (h.1 x (List.mem_of_getElem? hk))
  rw [hw, Work.ok_enable] at hwork
  exact ⟨hphase, hterminated, hu, hc, (linesOk_iff s.cfg m n).1 hwork.2 i hbit⟩

/-- Injecting a line that is linked nowhere into an online vCPU `u`: the line is `u`'s, queued and not visible, raised
only if it is enabled, and the operations in progress stay before the notification (R213, R214). -/
theorem portStep_inject_online {s : State} (hsized : s.Sized) {u L : Nat} (hready : s.LineReady u L)
    (hnone : (s.desc u L).linked = none) (honline : (s.envAt u).online = true) (cp : Option Nat) :
    ∃ t, portStep (.inject u L cp) s = .next t ∧ t.cfg = s.cfg ∧
      t.desc u L = ((s.desc u L).snapshot (s.priorityOf u L)).linkTo u ∧
      t.history = s.history ++ (if (s.desc u L).enabled then [.piRaise u L (s.priorityOf u L)] else []) ∧
      t.tasks = s.tasks ++ [⟨none, cp, .notify u, .nothing⟩] := by
  have ⟨_, _, hu, _, hL⟩ := hready
  refine ⟨_, portInject_of_online hready hnone honline cp, rfl, ?_, rfl, rfl⟩
  exact (injectInsert_desc_self (injectRaise_sized hsized u L) hu hL).trans
    (congrArg (·.linkTo u) (injectRaise_desc_self hsized hu hL))

/-- Settles O58: the injection leaves the line linked, not visible and with no event, and the enable step of such a line
re-raises it for the vCPU it is linked to. -/
theorem enableWindow : Obligations.EnableWindow := by
  intro s v u n i k m cp cp' hinv htask hbit hu hc honline hkey henabled hnone
  have ⟨_, hsized, _⟩ := hinv
  have hready := hinv.tasksOk.lineReady htask rfl hbit hu hc
  have hdesc : ∀ s : State, s.desc u (32 * n + i) = s.desc v (32 * n + i) := fun s => s.desc_eq_of_key hkey
  obtain ⟨t, hinject, hcfg, hline, hhistory, htasks⟩ :=
    portStep_inject_online hsized hready (hdesc s ▸ hnone) honline cp'
  rw [hdesc, henabled, if_neg Bool.false_ne_true, List.append_nil] at hhistory
  rw [hdesc] at hline
  have hlink : (t.desc v (32 * n + i)).linked = some u := by rw [hline]; rfl
  have hvisible : (t.desc v (32 * n + i)).visible = false := by rw [hline]; rfl
  have htask' : t.tasks[k]? = some ⟨some v, cp, .none, .enable v m n⟩ := by
    rw [htasks, List.getElem?_append_left (List.getElem?_eq_some_iff.1 htask).1, htask]
  refine ⟨t, hinject, hhistory, hlink, htask', fun hlow => ?step⟩
  case step =>
    obtain ⟨t', hadvance, -, -, hline', phys, rfl, -, hplain⟩ :=
      enableStepEffect t k v n i m (some v) cp (portStep_inv hinv hinject) htask' hbit hlow
    obtain ⟨hreraise, -⟩ := hplain fun ⟨_, _, hunlinked⟩ => by simp [hlink] at hunlinked
    refine ⟨t', hadvance, by rw [hline'], by rw [hline']; exact hlink, ?_⟩
    rw [hreraise u hlink hvisible, hhistory, hcfg]

end Sys2Proof.Machine

/-! ## A racing enable and disable of one line (R349) -/

namespace Sys2Proof.Machine

/-- The bits of a word that has at most the bit of line `i` written, and has it, are that one bit. -/
theorem eq_twoPow_of_written {m : Word} {i : Nat} {p : Nat → Bool} (hp : p i = true)
    (hbits : ∀ j < 32, m.getLsbD j = ((BitVec.twoPow 32 i).getLsbD j && p j)) : m = BitVec.twoPow 32 i := by
  refine BitVec.eq_of_getLsbD_eq fun j hj => ?_
  rw [hbits j hj, BitVec.getLsbD_twoPow]
  by_cases hij : i = j
  · subst hij; simp [hp]
  · simp [hij]

theorem twoPow_ne_zero {i : Nat} (hi : i < 32) : BitVec.twoPow 32 i ≠ 0#32 := by
  intro h
  have hbit := congrArg (fun m : Word => m.getLsbD i) h
  simp [hi] at hbit

section

variable {s : State} {v : Byte} {n : BitVec 5} {i : Nat}

/-- A set-enable write of one clear bit sets it and leaves one enable step to do (42_mmio_line_registers.md R152). -/
theorem exec_wrIsenabler_bit (hs : s.Sized) (hr : s.Ready v.toNat) (hi : i < 32)
    (hL : 32 * n.toNat + i < s.cfg.nlines) (hclear : (s.rankAt v.toNat n.toNat).enable.getLsbD i = false) :
    ∃ t, exec (.wrIsenabler n ⟨v, .word, 0#2, BitVec.twoPow 32 i⟩) s = .next t ∧ t.terminated = false ∧
      t.tasks = s.tasks ++ [⟨some v.toNat, (s.envAt v.toNat).runningOn, .none,
        .enable v.toNat (BitVec.twoPow 32 i) n.toNat⟩] ∧
      (t.rankAt v.toNat n.toNat).enable.getLsbD i = true := by
  obtain ⟨hwrite, -⟩ := setEnableWrite n ⟨v, .word, 0#2, BitVec.twoPow 32 i⟩ s hs hr (Config.rank_le_nsr (by omega))
  obtain ⟨t, m, hexec, ⟨hfields, -⟩, -, hbits⟩ := hwrite ⟨rfl, rfl⟩
  have ⟨_, hterminated, _⟩ := hr
  have hm : m = BitVec.twoPow 32 i := eq_twoPow_of_written
    (p := fun j => decide (32 * n.toNat + j < s.cfg.nlines) && !(s.rankAt v.toNat n.toNat).enable.getLsbD j)
    (by simp [hL, hclear]) fun j hj => by rw [(hbits j hj).2, Bool.and_assoc]
  rw [hm, if_neg (twoPow_ne_zero hi)] at hexec
  refine ⟨_, hexec, by rw [hfields]; exact hterminated, rfl, ?_⟩
  exact (hbits i hi).1.trans (by simp [hL, hi])

/-- A clear-enable write of one set bit clears it and leaves one disable step to do (R153). -/
theorem exec_wrIcenabler_bit (hs : s.Sized) (hr : s.Ready v.toNat) (hi : i < 32)
    (hL : 32 * n.toNat + i < s.cfg.nlines) (hset : (s.rankAt v.toNat n.toNat).enable.getLsbD i = true) :
    ∃ t, exec (.wrIcenabler n ⟨v, .word, 0#2, BitVec.twoPow 32 i⟩) s = .next t ∧
      t.tasks = s.tasks ++ [⟨some v.toNat, (s.envAt v.toNat).runningOn, .none,
        .disable v.toNat (BitVec.twoPow 32 i) n.toNat⟩] ∧
      (t.rankAt v.toNat n.toNat).enable.getLsbD i = false := by
  obtain ⟨hwrite, -⟩ := clearEnableWrite n ⟨v, .word, 0#2, BitVec.twoPow 32 i⟩ s hs hr (Config.rank_le_nsr (by omega))
  obtain ⟨t, m, hexec, -, -, hbits⟩ := hwrite ⟨rfl, rfl⟩
  have hm : m = BitVec.twoPow 32 i := eq_twoPow_of_written
    (p := fun j => decide (32 * n.toNat + j < s.cfg.nlines) && (s.rankAt v.toNat n.toNat).enable.getLsbD j)
    (by simp [hL, hset]) fun j hj => by rw [(hbits j hj).2, Bool.and_assoc]
  rw [hm, if_neg (twoPow_ne_zero hi)] at hexec
  refine ⟨_, hexec, rfl, ?_⟩
  exact (hbits i hi).1.trans (by simp [hL, hi])

end

/-- An access that is not Fatal leaves every other vCPU ready for its own. -/
theorem State.Ready.of_exec {s t : State} {i : Instr} {u : Nat} {x : Task} (hr : s.Ready u) (h : exec i s = .next t)
    (hterminated : t.terminated = false) (htasks : t.tasks = s.tasks ++ [x]) (hx : x.accessor ≠ some u) :
    t.Ready u := by
  obtain ⟨hphase, -, hu, hc, hfree⟩ := hr
  obtain ⟨hphase', hcfg⟩ := exec_phase_cfg h
  refine ⟨hphase'.trans hphase, hterminated, hcfg ▸ hu, (exec_created h u).trans hc, fun y hy => ?_⟩
  rw [htasks, List.mem_append, List.mem_singleton] at hy
  rcases hy with hy | rfl
  · exact hfree y hy
  · exact hx

section

variable {s : State} {k v n i : Nat} {cp : Option Nat}

/-- The last disable step of a transition ends the operation, with its line linked nowhere (43_enable_disable.md
R195). -/
theorem advance_disable_last (hinv : s.Inv) (hi : i < 32)
    (htask : s.tasks[k]? = some ⟨some v, cp, .none, .disable v (BitVec.twoPow 32 i) n⟩) :
    ∃ t, advance k s = .next t ∧ t.tasks = s.tasks.eraseIdx k ∧ (t.desc v (32 * n + i)).linked = none := by
  obtain ⟨t, h, hadvance, -, -, -, hline, -, hleaves⟩ := disableStepEffect s k v n i _ _ _ hinv htask
    (by simp [hi]) (fun j hj => by simp; omega)
  rw [State.Leaves, if_pos (by simp [Task.isDone, Work.isDone])] at hleaves
  exact ⟨t, hadvance, hleaves.1, by rw [hline]⟩

/-- The enable step of a line that is linked nowhere emits the event of its backing interrupt last (R191 to R193). -/
theorem advance_enable_unlinked (hinv : s.Inv) (hi : i < 32)
    (htask : s.tasks[k]? = some ⟨some v, cp, .none, .enable v (BitVec.twoPow 32 i) n⟩)
    (hnone : (s.desc v (32 * n + i)).linked = none) :
    ∃ t, advance k s = .next t ∧ (t.desc v (32 * n + i)).enabled = true ∧
      t.history = s.history ++ physEvents s.cfg v (32 * n + i) .piEnablePhys := by
  obtain ⟨t, hadvance, -, -, hline, phys, rfl, hforced, hplain⟩ := enableStepEffect s k v n i _ _ _ hinv htask
    (by simp [hi]) (fun j hj => by simp; omega)
  refine ⟨t, hadvance, by rw [hline], ?_⟩
  by_cases h : s.cfg.evtchnLine = some (32 * n + i) ∧ (s.envAt v).upcall = true ∧
      (s.desc v (32 * n + i)).linked = none
  · exact (hforced h).1
  · exact (hplain h).2.1 (.inl hnone)

end

theorem physEvents_shared {c : Config} {v L p : Nat} (hL : 32 ≤ L) (hp : c.backingOf (.shared L) = some p)
    (e : Nat → Event) : physEvents c v L e = [e p] := by
  simp only [physEvents, descKey, if_neg (Nat.not_lt.2 hL), hp]

/-- Settles O59: the clear-enable write has the last word on the rank, and the enable step on the descriptor. -/
theorem racingEnableAndDisable : Obligations.RacingEnableAndDisable := by
  intro s v u n i hinv hidle hne hv hu hn hi hL hclear
  have ⟨_, hsized, _⟩ := hinv
  have hshared : 32 ≤ 32 * n.toNat + i := by omega
  have hrank : ∀ s : State, s.rankAt u.toNat n.toNat = s.rankAt v.toNat n.toNat := fun s => by
    obtain ⟨r, hr⟩ : ∃ r, n.toNat = r + 1 := ⟨n.toNat - 1, by omega⟩
    rw [hr, s.rankAt_shared u.toNat v.toNat r]
  -- the two rank phases
  obtain ⟨t₁, hexec₁, hterminated₁, htasks₁, hset₁⟩ := exec_wrIsenabler_bit hsized hv hi hL hclear
  have hinv₁ := exec_inv hinv hexec₁
  have ⟨_, hsized₁, _⟩ := hinv₁
  have hcfg₁ := (exec_phase_cfg hexec₁).2
  have hu₁ : t₁.Ready u.toNat := hu.of_exec hexec₁ hterminated₁ htasks₁ fun e =>
    hne (BitVec.eq_of_toNat_eq (Option.some.inj e))
  obtain ⟨t₂, hexec₂, htasks₂, hclear₂⟩ :=
    exec_wrIcenabler_bit hsized₁ hu₁ hi (hcfg₁ ▸ hL) (hrank t₁ ▸ hset₁)
  have hinv₂ := exec_inv hinv₁ hexec₂
  have hcfg₂ := (exec_phase_cfg hexec₂).2
  rw [htasks₁, hidle, List.nil_append, List.singleton_append] at htasks₂
  -- the two per-line steps, in the other order
  obtain ⟨t₃, hadvance₃, htasks₃, hnone₃⟩ := advance_disable_last hinv₂ hi (congrArg (·[1]?) htasks₂)
  rw [htasks₂] at htasks₃
  have hinv₃ := advance_inv hinv₂ hadvance₃
  have hcfg₃ : t₃.cfg = t₂.cfg := by rw [advance_frame hadvance₃]
  rw [t₃.desc_eq_of_key (v := v.toNat) (by omega)] at hnone₃
  obtain ⟨t₄, hadvance₄, henabled₄, hhistory₄⟩ :=
    advance_enable_unlinked hinv₃ hi (congrArg (·[0]?) htasks₃) hnone₃
  refine ⟨t₁, t₂, t₃, t₄, hexec₁, hexec₂, hadvance₃, hadvance₄, ?_, henabled₄, fun p hp => ⟨t₃.history, ?_⟩⟩
  · rw [(advance_sameRanks hadvance₄).2, (advance_sameRanks hadvance₃).2, ← hrank, hclear₂]
  · rw [hhistory₄, physEvents_shared hshared]
    rwa [hcfg₃, hcfg₂, hcfg₁]

end Sys2Proof.Machine
